-- ==== Sys2Proof/Word.lean ====
section
/-! DEFINITION. The word types of the frame format and of the ports (spec/00_scope.md R6, spec/30_encoding.md R60, R64, R65). -/

namespace Sys2Proof

/-- One byte of the frame row (R41). -/
abbrev Byte := BitVec 8

/-- Half a byte (R12, R110, R111). -/
abbrev Nibble := BitVec 4

/-- One ROW_BITS input, ROW_COUNT_W = 16 bits, unsigned (R5, R41, D2). -/
abbrev Count := BitVec 16

/-- The raw temperature field TRAW (R60, R114). -/
abbrev RawTemp := BitVec 12

/-- The channel field CH (R60, R115). -/
abbrev Channel := BitVec 2

/-- A one-bit flag of the frame or of RES (R60, R116, R117). -/
abbrev Flag := BitVec 1

/-- RES.TEMP_DC, TEMP_DC_W = 16 bits, two's complement (R5, R22, R131). -/
abbrev TempDc := BitVec 16

/-- The frame word W of format F-FRAME (R43, R60). -/
abbrev FrameWord := BitVec 32

/-- The packed request word REQ of format F-REQ (R64). -/
abbrev ReqWord := BitVec 144

/-- The packed result word RSP of format F-RSP (R65). -/
abbrev RspWord := BitVec 30

end Sys2Proof
end

