-- ==== Sys2Proof/Config.lean ====
section
/-! DEFINITION. The build-time constants of spec/00_scope.md R5 as fields of one configuration, and the model's free values. -/

namespace Sys2Proof

/-- The implementation parameters of R5, with the default values R5 gives.
A claim that relies on a value relies on the field that names it (D18); the literals themselves are unaudited
(N3, U10), so each default is UNVERIFIED against the original code and unsafe (log entry 9).
The block that was built is `cfg` (Machine/Constants.lean). -/
structure Config where
  /-- FRAME_BITS: the exact bit count every gated row must have. -/
  frameBits : Nat := 28
  /-- GATE_FIRST_ROW: the first row index the width gate inspects. -/
  gateFirstRow : Nat := 1
  /-- GATE_LAST_ROW: the last row index the width gate inspects. -/
  gateLastRow : Nat := 7
  /-- FRAME_ROW: the row whose content is decoded. -/
  frameRow : Nat := 1
  /-- FRAME_BYTES: how many bytes of the frame row are read. -/
  frameBytes : Nat := 4
  /-- TEMP_THRESHOLD: raw temperatures strictly above this are negative. -/
  tempThreshold : Nat := 2048
  /-- TEMP_SUBTRAHEND: subtracted from a raw temperature above the threshold. -/
  tempSubtrahend : Nat := 4096
  /-- TEMP_SCALE: the output counts tenths of a degree Celsius. -/
  tempScale : Nat := 10
  /-- CHECKSUM_OFFSET: subtracted from the nibble sum. -/
  checksumOffset : Nat := 1
  /-- CHECKSUM_MODULUS: the computed checksum is reduced modulo this. -/
  checksumModulus : Nat := 16
  /-- MIC: the integrity marker of a SUCCESS record. -/
  mic : String := "CHECKSUM"
  /-- FIELD_LIST: the ordered field names (R86). -/
  fieldList : List String := ["model", "id", "channel", "battery_ok", "temperature_C", "mic"]
  /-- ROW_COUNT_W: the width in bits of each ROW_BITS input (the type `Count`). -/
  rowCountW : Nat := 16
  /-- TEMP_DC_W: the width in bits of TEMP_DC (the type `TempDc`). -/
  tempDcW : Nat := 16
  /-- MODEL_NAME: the sensor's model string, OPEN (D10, U9). -/
  modelName : String
  /-- LATENCY: time from request to response, OPEN, finite (D25, U8); no rule depends on it. -/
  latency : Nat
deriving DecidableEq, Repr

/-- Free value: the model string no source gives (D10, N1, U9); safe, log entry 8. -/
opaque Config.openModelName : String

/-- Free value: the finite latency no source gives (D25, U8); safe, log entry 8. -/
opaque Config.openLatency : Nat

/-- Free value: what stands at bit `j` of the frame row's 4 bytes where the frame row of this burst has no bit `j`
(N7, R52: the reserved nibble of a 28-bit row, and an absent or short row). It depends on the burst, its rows' bits in
the order received, so two bursts are not taken to have the same filling; safe, log entry 10. -/
opaque Config.padBit : List (List Bool) → Nat → Bool

/-- Free value: how the host presents the bit count of row `r` of this burst where it is above 65535, before the bound
of D2 (never 28) is applied; safe, log entry 11. -/
opaque Config.wideCount : List (List Bool) → Nat → Count

end Sys2Proof
end

