-- ==== Sys2Proof/Machine/Constants.lean ====
section
/-! DEFINITION. The configuration of the block that was built: spec/00_scope.md R5's values, one by one, and the two OPEN
parameters left free. -/

namespace Sys2Proof

/-- The constants every other definition reads (R5, D18). -/
def cfg : Config where
  frameBits := 28
  gateFirstRow := 1
  gateLastRow := 7
  frameRow := 1
  frameBytes := 4
  tempThreshold := 2048
  tempSubtrahend := 4096
  tempScale := 10
  checksumOffset := 1
  checksumModulus := 16
  mic := "CHECKSUM"
  fieldList := ["model", "id", "channel", "battery_ok", "temperature_C", "mic"]
  rowCountW := 16
  tempDcW := 16
  modelName := Config.openModelName
  latency := Config.openLatency

end Sys2Proof
end

