-- ==== Sys2Proof/Syntax.lean ====
section
/-! DEFINITION. The operations of spec/opcode_table.json as ONE inductive, the request they start from, and the
formats their words have (spec/30_encoding.md R60 to R68). -/

namespace Sys2Proof

/-- The seven row bit counts ROW_BITS[1..7] (R41). -/
structure RowCounts where
  n1 : Count
  n2 : Count
  n3 : Count
  n4 : Count
  n5 : Count
  n6 : Count
  n7 : Count
deriving DecidableEq, Repr

/-- The four bytes ROW1[0..3] of the frame row, b0 first (R41, R43). -/
structure FrameBytes where
  b0 : Byte
  b1 : Byte
  b2 : Byte
  b3 : Byte
deriving DecidableEq, Repr

/-- What one DECODE request carries (R64), which is also the whole burst view (R40, R41). -/
structure Request where
  counts : RowCounts
  row1 : FrameBytes
deriving DecidableEq, Repr

/-- One constructor per row of spec/opcode_table.json.
`decode` is the only operation a host can invoke; the others are stages of DECODE (R68), with the operands of
their rules (R11's template). A host reaches them through DECODE only (Machine/Sequencer.lean, log entry 4). -/
inductive Instr where
  /-- DECODE (R80): one burst into one result. -/
  | decode (r : Request)
  /-- WIDTH_GATE (R100): stage 1. -/
  | widthGate (n : RowCounts)
  /-- HIGH_NIBBLE (R110). -/
  | highNibble (b : Byte)
  /-- LOW_NIBBLE (R111). -/
  | lowNibble (b : Byte)
  /-- EXTRACT_CHECKSUM_RX (R112): stage 2. -/
  | extractChecksumRx (b0 : Byte)
  /-- EXTRACT_ID (R113): stage 4. -/
  | extractId (b0 b1 : Byte)
  /-- EXTRACT_TEMP_RAW (R114): stage 4. -/
  | extractTempRaw (b1 b2 : Byte)
  /-- EXTRACT_CHANNEL (R115): stage 4. -/
  | extractChannel (b3 : Byte)
  /-- EXTRACT_BATTERY (R116): stage 4. -/
  | extractBattery (b3 : Byte)
  /-- EXTRACT_FIRST_TX (R117): internal, no output. -/
  | extractFirstTx (b3 : Byte)
  /-- SIGNED_RECON (R130): stage 4. -/
  | signedRecon (traw : RawTemp)
  /-- CHECKSUM_COMPUTE (R141): stage 2. -/
  | checksumCompute (b0 b1 b2 b3 : Byte)
  /-- CHECKSUM_COMPARE (R142): stage 3. -/
  | checksumCompare (cRx cCalc : Nibble)
  /-- RECORD_ASSEMBLE (R85): stage 4; TEMP is an integer (R9). -/
  | recordAssemble (id : Byte) (ch : Channel) (bat : Flag) (temp : Int)
deriving DecidableEq, Repr

/-- The rows of the opcode table. No input bits select a row (R68): a row is named by its place in DECODE. -/
inductive Row where
  | decode | widthGate | highNibble | lowNibble | extractChecksumRx | extractId | extractTempRaw
  | extractChannel | extractBattery | extractFirstTx | signedRecon | checksumCompute | checksumCompare
  | recordAssemble
deriving DecidableEq, Repr

/-- The row an instruction stands in. -/
def Instr.row : Instr → Row
  | .decode _ => .decode
  | .widthGate _ => .widthGate
  | .highNibble _ => .highNibble
  | .lowNibble _ => .lowNibble
  | .extractChecksumRx _ => .extractChecksumRx
  | .extractId _ _ => .extractId
  | .extractTempRaw _ _ => .extractTempRaw
  | .extractChannel _ => .extractChannel
  | .extractBattery _ => .extractBattery
  | .extractFirstTx _ => .extractFirstTx
  | .signedRecon _ => .signedRecon
  | .checksumCompute _ _ _ _ => .checksumCompute
  | .checksumCompare _ _ => .checksumCompare
  | .recordAssemble _ _ _ _ => .recordAssemble

/-- A word in one of the formats of the opcode table's "format" column. -/
inductive FormatWord where
  /-- F-REQ (R64). -/
  | req (w : ReqWord)
  /-- A byte, the operand of the nibble helpers (R110, R111). -/
  | byte (b : Byte)
  /-- F-FRAME (R60). -/
  | frame (w : FrameWord)
  /-- F-RSP (R65). -/
  | rsp (w : RspWord)
deriving DecidableEq, Repr

/-- Why a word is no operand of the row it is read for. -/
inductive DecodeRefusal where
  /-- A request of another length than F-REQ's 144 bits (R64); raised by `decodeBytes`; safe. -/
  | notARequest (bytes : Nat)
  /-- The word has not the format of the row's table entry; raised by `decodeAs`; safe. -/
  | wrongFormat (row : Row)
  /-- OUTCOME code 3 in a packed RSP (R70 c, U3: "refuse"); raised on reading an RSP word; safe. -/
  | reservedOutcome
  /-- An RSP whose record fields hold no value (R23, R65) is no operand of RECORD_ASSEMBLE; safe. -/
  | noRecord
  /-- A TEMP_DC outside -2047..2048, which no rule produces (R22, R131); safe, log entry 14. -/
  | tempOutOfRange
deriving DecidableEq, Repr

end Sys2Proof
end

