-- ==== Sys2Proof/Machine/Operands.lean ====
section
/-! DEFINITION. The operand forms of the operations as pure functions: the byte order of the frame word
(spec/20_memory.md R43), the bit-field extractors (spec/42_bitfield.md), the signed-value reconstructor
(spec/43_signed_value.md R130) and the computed checksum (spec/44_checksum.md R141). -/

namespace Sys2Proof

/-- W = b0 ++ b1 ++ b2 ++ b3, b0 most significant (R43). -/
def FrameBytes.word (f : FrameBytes) : FrameWord := f.b0 ++ f.b1 ++ f.b2 ++ f.b3

/-- The four bytes of a frame word (R43): b0 = W[31:24], b1 = W[23:16], b2 = W[15:8], b3 = W[7:0]. -/
def FrameBytes.ofWord (w : FrameWord) : FrameBytes :=
  ⟨w.extractLsb' 24 8, w.extractLsb' 16 8, w.extractLsb' 8 8, w.extractLsb' 0 8⟩

/-- Frame bit j of the 28, in the order received: W[31 - j] (R62). -/
def frameBit (w : FrameWord) (j : Nat) : Bool := w.getLsbD (31 - j)

/-- ROW_BITS[r] for r = 1..7; no other row has a count input (R41, R102). -/
def RowCounts.row? (n : RowCounts) : Nat → Option Count
  | 1 => some n.n1
  | 2 => some n.n2
  | 3 => some n.n3
  | 4 => some n.n4
  | 5 => some n.n5
  | 6 => some n.n6
  | 7 => some n.n7
  | _ => none

/-- ROW1[k] for k = 0..3; no other byte is an input (R41). -/
def FrameBytes.byte? (f : FrameBytes) : Nat → Option Byte
  | 0 => some f.b0
  | 1 => some f.b1
  | 2 => some f.b2
  | 3 => some f.b3
  | _ => none

/-- HIGH_NIBBLE(b) = (b >> 4) & 0xF (R110). -/
def highNibble (b : Byte) : Nibble := ((b >>> 4) &&& 0x0F#8).setWidth 4

/-- LOW_NIBBLE(b) = b & 0xF (R111). -/
def lowNibble (b : Byte) : Nibble := (b &&& 0x0F#8).setWidth 4

/-- C_RX = HIGH_NIBBLE(b0) (R112). -/
def checksumRx (b0 : Byte) : Nibble := highNibble b0

/-- ID = (LOW_NIBBLE(b0) << 4) | HIGH_NIBBLE(b1) (R113). -/
def deviceId (b0 b1 : Byte) : Byte :=
  ((lowNibble b0).setWidth 8 <<< 4) ||| (highNibble b1).setWidth 8

/-- TRAW = (LOW_NIBBLE(b1) << 8) | b2 (R114). -/
def tempRaw (b1 b2 : Byte) : RawTemp :=
  ((lowNibble b1).setWidth 12 <<< 8) ||| b2.setWidth 12

/-- CH = (b3 >> 6) & 0x3 (R115). -/
def channel (b3 : Byte) : Channel := ((b3 >>> 6) &&& 0x3#8).setWidth 2

/-- BAT = (b3 >> 5) & 0x1; 1 is OK (R116). -/
def battery (b3 : Byte) : Flag := ((b3 >>> 5) &&& 0x1#8).setWidth 1

/-- FTX = (b3 >> 4) & 0x1 (R117). -/
def firstTx (b3 : Byte) : Flag := ((b3 >>> 4) &&& 0x1#8).setWidth 1

/-- SIGNED_RECON(TRAW): strictly above the threshold, less the subtrahend (R130, R133). -/
def signedTemp (traw : RawTemp) : Int :=
  if traw.toNat > cfg.tempThreshold then (traw.toNat : Int) - (cfg.tempSubtrahend : Int)
  else (traw.toNat : Int)

/-- S, the sum of the six covered nibbles as an integer, 0..90 (R63, R141). -/
def nibbleSum (b0 b1 b2 b3 : Byte) : Nat :=
  (lowNibble b0).toNat + (highNibble b1).toNat + (lowNibble b1).toNat
    + (highNibble b2).toNat + (lowNibble b2).toNat + (highNibble b3).toNat

/-- C_CALC = (S - 1) mod 16 with the non-negative remainder (R8, R141, D26). -/
def checksumOf (s : Nat) : Nibble :=
  BitVec.ofInt 4 (((s : Int) - (cfg.checksumOffset : Int)) % (cfg.checksumModulus : Int))

/-- CHECKSUM_COMPUTE(b0, b1, b2, b3) (R141). -/
def computedChecksum (b0 b1 b2 b3 : Byte) : Nibble := checksumOf (nibbleSum b0 b1 b2 b3)

end Sys2Proof
end

