-- ==== Sys2Proof/WellFormed.lean ====
section
/-! DEFINITION. Which instructions the rules give operands for: every operand is a field of its own width, and
RECORD_ASSEMBLE's TEMP lies in the range spec/40_decode.md R85 states. -/

namespace Sys2Proof

/-- The least TEMP of SIGNED_RECON, -2047 (R130): one above the threshold, less the subtrahend. -/
def tempMin : Int := (cfg.tempThreshold : Int) + 1 - (cfg.tempSubtrahend : Int)

/-- The greatest TEMP of SIGNED_RECON, 2048 (R130): the threshold itself. -/
def tempMax : Int := (cfg.tempThreshold : Int)

/-- "TEMP (an integer in −2047..2048)" (R85). -/
def tempInRange (t : Int) : Bool := decide (tempMin ≤ t ∧ t ≤ tempMax)

/-- Well-formedness of an instruction: the only operand that can leave its range is TEMP. -/
def Instr.wf : Instr → Bool
  | .decode _ => true
  | .widthGate _ => true
  | .highNibble _ => true
  | .lowNibble _ => true
  | .extractChecksumRx _ => true
  | .extractId _ _ => true
  | .extractTempRaw _ _ => true
  | .extractChannel _ => true
  | .extractBattery _ => true
  | .extractFirstTx _ => true
  | .signedRecon _ => true
  | .checksumCompute _ _ _ _ => true
  | .checksumCompare _ _ => true
  | .recordAssemble _ _ _ temp => tempInRange temp

end Sys2Proof
end

