-- ==== Sys2Proof/Decode.lean ====
section
/-! DEFINITION. The decoder from words and bytes to instructions, total, refusing by name, and after it the encoder
(spec/30_encoding.md R60 to R68). -/

namespace Sys2Proof

/-- The request of a REQ word, field by field (R64). -/
def Request.ofWord (w : ReqWord) : Request :=
  { counts :=
      { n1 := w.extractLsb' 128 16
        n2 := w.extractLsb' 112 16
        n3 := w.extractLsb' 96 16
        n4 := w.extractLsb' 80 16
        n5 := w.extractLsb' 64 16
        n6 := w.extractLsb' 48 16
        n7 := w.extractLsb' 32 16 }
    row1 := FrameBytes.ofWord (w.extractLsb' 0 32) }

/-- A request's operation: DECODE, with no opcode bits; "Every 144-bit REQ is a legal request" (R68, R69). -/
def decodeRequest (w : ReqWord) : Instr := .decode (Request.ofWord w)

/-- Bytes, most significant first, as one number. -/
def bytesToNat (bs : List Byte) : Nat := bs.foldl (fun acc b => acc * 256 + b.toNat) 0

/-- The decoder on bytes: REQ's 18 bytes, REQ[143:136] first (D28; DESIGN CHOICE, safe, log entry 16), or a refusal
of any other length. -/
def decodeBytes (bs : List Byte) : Except DecodeRefusal Instr :=
  if bs.length = 18 then .ok (decodeRequest (BitVec.ofNat 144 (bytesToNat bs)))
  else .error (.notARequest bs.length)

/-- RECORD_ASSEMBLE's operands as an F-RSP word holds them (R65, R85): a SUCCESS word, TEMP in range. -/
def decodeRecord (w : RspWord) : Except DecodeRefusal Instr :=
  if w.getLsbD 29 = false then .error .noRecord
  else if w.extractLsb' 27 2 = 3#2 then .error .reservedOutcome
  else if w.extractLsb' 27 2 ≠ 0#2 then .error .noRecord
  else if tempInRange (w.extractLsb' 0 16).toInt = false then .error .tempOutOfRange
  else .ok (.recordAssemble (w.extractLsb' 19 8) (w.extractLsb' 17 2) (w.extractLsb' 16 1)
    (w.extractLsb' 0 16).toInt)

/-- A stage's operands, read from the frame word in the bits its table row names (R60, R63).
CHECKSUM_COMPARE's second operand is the "output of CHECKSUM_COMPUTE" on that word. -/
def decodeFrame (row : Row) (w : FrameWord) : Except DecodeRefusal Instr :=
  let f := FrameBytes.ofWord w
  match row with
  | .extractChecksumRx => .ok (.extractChecksumRx f.b0)
  | .extractId => .ok (.extractId f.b0 f.b1)
  | .extractTempRaw => .ok (.extractTempRaw f.b1 f.b2)
  | .extractChannel => .ok (.extractChannel f.b3)
  | .extractBattery => .ok (.extractBattery f.b3)
  | .extractFirstTx => .ok (.extractFirstTx f.b3)
  | .signedRecon => .ok (.signedRecon (w.extractLsb' 8 12))
  | .checksumCompute => .ok (.checksumCompute f.b0 f.b1 f.b2 f.b3)
  | .checksumCompare =>
    .ok (.checksumCompare (w.extractLsb' 28 4) (computedChecksum f.b0 f.b1 f.b2 f.b3))
  | .decode | .widthGate | .highNibble | .lowNibble | .recordAssemble => .error (.wrongFormat row)

/-- The instruction of a table row whose operands stand in a word of the row's format.
The row is named, not read from bits: "every row has match = mask = 0" (R68). -/
def decodeAs (row : Row) : FormatWord → Except DecodeRefusal Instr
  | .req w =>
    match row with
    | .decode => .ok (decodeRequest w)
    | .widthGate => .ok (.widthGate (Request.ofWord w).counts)
    | _ => .error (.wrongFormat row)
  | .byte b =>
    match row with
    | .highNibble => .ok (.highNibble b)
    | .lowNibble => .ok (.lowNibble b)
    | _ => .error (.wrongFormat row)
  | .frame w => decodeFrame row w
  | .rsp w =>
    match row with
    | .recordAssemble => decodeRecord w
    | _ => .error (.wrongFormat row)

/-! The encoder. -/

/-- REQ[143:32], the seven counts, ROW_BITS[1] most significant (R64). -/
def RowCounts.word (n : RowCounts) : BitVec 112 :=
  n.n1 ++ n.n2 ++ n.n3 ++ n.n4 ++ n.n5 ++ n.n6 ++ n.n7

/-- The REQ word of a request (R64). -/
def Request.word (r : Request) : ReqWord := r.counts.word ++ r.row1.word

/-- The 18 bytes of a REQ word, most significant first. -/
def ReqWord.bytes (w : ReqWord) : List Byte :=
  (List.range 18).map fun k => w.extractLsb' (8 * (17 - k)) 8

/-- The operand word of an instruction in its row's format; bits the row does not read are 0 (log entry 13).
For CHECKSUM_COMPARE, whose row takes C_CALC from CHECKSUM_COMPUTE, N1 is chosen so that the word computes it (R145). -/
def encode : Instr → FormatWord
  | .decode r => .req r.word
  | .widthGate n => .req (Request.word ⟨n, ⟨0, 0, 0, 0⟩⟩)
  | .highNibble b => .byte b
  | .lowNibble b => .byte b
  | .extractChecksumRx b0 => .frame (FrameBytes.word ⟨b0, 0, 0, 0⟩)
  | .extractId b0 b1 => .frame (FrameBytes.word ⟨b0, b1, 0, 0⟩)
  | .extractTempRaw b1 b2 => .frame (FrameBytes.word ⟨0, b1, b2, 0⟩)
  | .extractChannel b3 => .frame (FrameBytes.word ⟨0, 0, 0, b3⟩)
  | .extractBattery b3 => .frame (FrameBytes.word ⟨0, 0, 0, b3⟩)
  | .extractFirstTx b3 => .frame (FrameBytes.word ⟨0, 0, 0, b3⟩)
  | .signedRecon traw => .frame (0#12 ++ traw ++ 0#8)
  | .checksumCompute b0 b1 b2 b3 => .frame (FrameBytes.word ⟨b0, b1, b2, b3⟩)
  | .checksumCompare cRx cCalc => .frame (cRx ++ (cCalc + 1#4) ++ 0#24)
  | .recordAssemble id ch bat temp =>
    .rsp (1#1 ++ 0#2 ++ id ++ ch ++ bat ++ BitVec.ofInt 16 temp)

/-- The host's probe: the bits `w` laid out as one request word (every bit above `nbits` is 0) and given to the byte
decoder. Every word selects DECODE, the only operation a request can name (R68, R69; log entry 4). -/
def decodeTableWord (nbits w : Nat) : Option Instr :=
  match decodeBytes (ReqWord.bytes (BitVec.ofNat 144 (w % 2 ^ nbits))) with
  | .ok i => some i
  | .error _ => none

end Sys2Proof
end

