-- ==== Sys2Proof/Machine/State.lean ====
section
/-! DEFINITION. The state of the block as plain data (spec/10_state.md), what the host can do to it, and the reasons a
step can stop. -/

namespace Sys2Proof.Machine

/-- The record of a SUCCESS result (R22). Model name and marker are constants, not stored (R85). -/
structure Record where
  /-- RES.ID, 0..255. -/
  id : Byte
  /-- RES.CHANNEL, 0..3. -/
  channel : Channel
  /-- RES.BATTERY_OK, 1 = "OK", 0 = "LOW". -/
  batteryOk : Flag
  /-- RES.TEMP_DC, tenths of a degree Celsius in two's complement. -/
  tempDc : TempDc
deriving DecidableEq, Repr

/-- The result of a DECODE (R22, R66, R150); record fields exist on success only (R23, R153). -/
inductive Result where
  | success (rec : Record)
  | structuralMismatch
  | integrityViolation
deriving DecidableEq, Repr

/-- The two failure outcomes a DECODE raises (R10, R151, R152). -/
inductive Failure where
  | structuralMismatch
  | integrityViolation
deriving DecidableEq, Repr

/-- The names of RES.OUTCOME; code 3 is reserved and has none (R66). -/
inductive OutcomeCode where
  | success
  | structuralMismatch
  | integrityViolation
deriving DecidableEq, Repr

/-- The answer of a gate (R100, R142). -/
inductive Verdict where
  | pass
  | fail
deriving DecidableEq, Repr

/-- The intermediate values of one DECODE (R25). `none` is "no value": every one of them between DECODEs (R31).
No host read reaches them (log entry 3). -/
structure Wires where
  widthGate : Option Verdict := none
  nibbleHigh : Option Nibble := none
  nibbleLow : Option Nibble := none
  cRx : Option Nibble := none
  id : Option Byte := none
  traw : Option RawTemp := none
  ch : Option Channel := none
  bat : Option Flag := none
  ftx : Option Flag := none
  sum : Option Nat := none
  cCalc : Option Nibble := none
  checksumGate : Option Verdict := none
  temp : Option Int := none
  record : Option Record := none
deriving DecidableEq, Repr

/-- No intermediate value: what R31 says of the time between DECODEs. -/
def Wires.idle : Wires := {}

/-- A field of RES (R22). -/
inductive ResField where
  | valid | outcome | id | channel | batteryOk | tempDc
deriving DecidableEq, Repr

/-- What the host can read: RES whole, one field of it, or a constant (R29, R48, R72). -/
inductive ReadPort where
  | res
  | field (f : ResField)
  | modelName
  | mic
  | fieldList
deriving DecidableEq, Repr

/-- What a read answers. -/
inductive Reply where
  | res (r : Option Result)
  | valid (b : Flag)
  | outcome (c : OutcomeCode)
  | id (v : Byte)
  | channel (v : Channel)
  | batteryOk (v : Flag)
  | tempDc (v : TempDc)
  | modelName (s : String)
  | mic (s : String)
  | fieldList (l : List String)
deriving DecidableEq, Repr

/-- What the host does between a DECODE request and its response (R45, R171, R177; log entry 2). -/
inductive WindowEvent where
  /-- A read: "returns the previous RES in full" (R177). -/
  | read (p : ReadPort)
  /-- Driving the inputs; allowed only with the values already there (R45, R175). -/
  | present (r : Request)
  /-- RESET; given no meaning here (R171). -/
  | reset
deriving DecidableEq, Repr

/-- One host transaction (R72, R174). -/
inductive HostEvent where
  /-- Drive ROW_BITS[1..7] and ROW1[0..3] (R174). -/
  | present (r : Request)
  /-- RESET between DECODEs (R170, R171). -/
  | reset
  /-- A DECODE request, with what the host does before its response (R64, R80). -/
  | request (during : List WindowEvent)
  /-- A read of RES or of a constant (R72, R177). -/
  | read (p : ReadPort)
deriving DecidableEq, Repr

/-- Why the machine stops with a fault. -/
inductive Fault where
  /-- A read of a RES field that holds no value ("A model faults a read of a field that holds no value", R23, U4).
  Raised by `readField`; safe. -/
  | noValue (f : ResField)
  /-- A read of RES at power-up, before any RESET or DECODE (R172, U5). Raised by `readPort`; safe. -/
  | resUnspecified
deriving DecidableEq, Repr

/-- Why a step is given no meaning. -/
inductive Refusal where
  /-- An instruction with no meaning yet; raised by exec's arms only; safe. -/
  | notModelled (mnemonic : String)
  /-- `RowBits(r)` of a row with no count input (R41, U16); raised by `rowBits`; safe. -/
  | noSuchRow (r : Nat)
  /-- `RowByte(r, k)` of a byte with no input (R41, U12, U16); raised by `rowByte`; safe. -/
  | noSuchByte (r k : Nat)
  /-- The host changed the inputs between a request and its response (R45, R175, U6); raised by `runWindow`; safe. -/
  | inputsChanged
  /-- RESET while a DECODE is in progress (R171, U7); raised by `runWindow`; safe. -/
  | resetDuringDecode
  /-- RECORD_ASSEMBLE with a TEMP outside -2047..2048, an operand R85 does not give it; raised by
  `execRecordAssemble` on an ill-formed instruction only; safe, log entry 14. -/
  | tempOutOfRange
  /-- A packed result word that stands for no result (R70 c, U3; R22); raised by `unpackRsp`; safe. -/
  | badRsp (d : DecodeRefusal)
deriving DecidableEq, Repr

/-- The state. The block's own register is `res` alone (R20); the inputs, the wires and the host's transactions are
held beside it so that the rules about them can be stated (log entries 1, 3, 5, 6, 7). -/
structure State where
  /-- RES; `none` is VALID = 0 (R22). -/
  res : Option Result
  /-- True from power-up until the first RESET or DECODE: RES then has no specified value (R172). The model's own. -/
  unspecified : Bool
  /-- The inputs as the host presents them: the burst view (R21, R40, R41). -/
  ports : Request
  /-- The intermediate values (R25, R31). -/
  wires : Wires
  /-- The host transactions still to happen, first one first. The model's own. -/
  pending : List HostEvent
  /-- What the host has read, newest first. The model's own. -/
  replies : List Reply
deriving DecidableEq, Repr

/-- An empty burst: every row absent, so every count 0 (R42), and bytes of 0 (DESIGN CHOICE, log entry 5). -/
def Request.empty : Request := ⟨⟨0, 0, 0, 0, 0, 0, 0⟩, ⟨0, 0, 0, 0⟩⟩

/-- The machine right after RESET (R30, R170): RES holds no value and nothing is in progress. The inputs are the host's;
here an empty burst (log entry 5). -/
def State.reset : State where
  res := none
  unspecified := false
  ports := Request.empty
  wires := Wires.idle
  pending := []
  replies := []

/-- The machine at power-up, before any RESET (R172, U5): what RES holds is unspecified, and a read of it faults. -/
def State.powerUp : State := { State.reset with unspecified := true }

end Sys2Proof.Machine
end

