-- ==== Sys2Proof/Machine/Flags.lean ====
section
/-! DEFINITION. Every status the block computes: the answers of the two gates (spec/41_width_gate.md R100,
spec/44_checksum.md R142) and the two status flags RES.VALID and RES.OUTCOME (spec/10_state.md R27,
spec/30_encoding.md R66). There are no condition codes (R27). -/

namespace Sys2Proof.Machine

/-- The rows the width gate inspects, GATE_FIRST_ROW..GATE_LAST_ROW (R5, R100). -/
def gatedRows : List Nat :=
  List.range' cfg.gateFirstRow (cfg.gateLastRow + 1 - cfg.gateFirstRow)

/-- Row r has exactly FRAME_BITS bits (R100). -/
def rowHasFrameBits (n : RowCounts) (r : Nat) : Bool :=
  match n.row? r with
  | some c => c.toNat == cfg.frameBits
  | none => false

/-- WIDTH_GATE (R100): every gated row has exactly FRAME_BITS bits. -/
def widthGate (n : RowCounts) : Verdict :=
  if gatedRows.all (rowHasFrameBits n) then .pass else .fail

/-- CHECKSUM_COMPARE (R142). -/
def checksumGate (cRx cCalc : Nibble) : Verdict :=
  if cRx = cCalc then .pass else .fail

/-- RES.VALID (R22): 1 once a DECODE has completed since reset. -/
def validFlag : Option Result → Flag
  | none => 0#1
  | some _ => 1#1

/-- The name of a result's outcome (R66). -/
def Result.outcome : Result → OutcomeCode
  | .success _ => .success
  | .structuralMismatch => .structuralMismatch
  | .integrityViolation => .integrityViolation

/-- The two-bit code of an outcome (R66, D5). -/
def OutcomeCode.code : OutcomeCode → BitVec 2
  | .success => 0#2
  | .structuralMismatch => 1#2
  | .integrityViolation => 2#2

/-- The outcome a code names; code 3 is reserved and names none (R66, R70 c). -/
def OutcomeCode.ofCode? (c : BitVec 2) : Option OutcomeCode :=
  if c = 0#2 then some .success
  else if c = 1#2 then some .structuralMismatch
  else if c = 2#2 then some .integrityViolation
  else none

/-- The result a raised failure writes (R10, R151, R152). -/
def Failure.result : Failure → Result
  | .structuralMismatch => .structuralMismatch
  | .integrityViolation => .integrityViolation

end Sys2Proof.Machine
end

