-- ==== Sys2Proof/Machine/Ops.lean ====
section
/-! DEFINITION. The named operations on the state: the burst-view primitives, writing and reading RES, raising a
failure outcome, and RESET. -/

namespace Sys2Proof.Machine

/-- `RowBits(r)` (R10, R41): the count of a gated row; any other row is refused (U16). -/
def rowBits (v : Request) (r : Nat) : Except Refusal Count :=
  match v.counts.row? r with
  | some c => .ok c
  | none => .error (.noSuchRow r)

/-- `RowByte(r, k)` (R10, R41): a byte of the frame row; any other location is refused (U12, U16). -/
def rowByte (v : Request) (r k : Nat) : Except Refusal Byte :=
  if r = cfg.frameRow ∧ k < cfg.frameBytes then
    match v.row1.byte? k with
    | some b => .ok b
    | none => .error (.noSuchByte r k)
  else .error (.noSuchByte r k)

/-- The one snapshot a DECODE reads its inputs as (R45): each location of R41 through its primitive. -/
def snapshot (v : Request) : Except Refusal Request := do
  let n1 ← rowBits v 1
  let n2 ← rowBits v 2
  let n3 ← rowBits v 3
  let n4 ← rowBits v 4
  let n5 ← rowBits v 5
  let n6 ← rowBits v 6
  let n7 ← rowBits v 7
  let b0 ← rowByte v cfg.frameRow 0
  let b1 ← rowByte v cfg.frameRow 1
  let b2 ← rowByte v cfg.frameRow 2
  let b3 ← rowByte v cfg.frameRow 3
  return { counts := ⟨n1, n2, n3, n4, n5, n6, n7⟩, row1 := ⟨b0, b1, b2, b3⟩ }

/-- Put an intermediate value on the wires (R25); nothing else changes (R11). -/
def State.drive (s : State) (w : Wires) : State := { s with wires := w }

/-- `RES <- v` at the end of a DECODE (R10, R81, R84): all of RES at once, and no intermediate value is left (R31). -/
def State.writeRes (s : State) (r : Result) : State :=
  { s with res := some r, unspecified := false, wires := Wires.idle }

/-- `raise` (R10): RES is written with the failure outcome and nothing else happens. This is the block's only
exception form: no trap, no vector, no saved state (R156), and nothing to return from (R157). -/
def raise (f : Failure) (s : State) : Host.Outcome State Fault Refusal :=
  .next (s.writeRes f.result)

/-- RESET between DECODEs (R170): RES becomes `none`; no input and no constant changes. -/
def State.applyReset (s : State) : State :=
  { s with res := none, unspecified := false, wires := Wires.idle }

/-- The host drives the inputs (R174). -/
def State.presentInputs (s : State) (r : Request) : State := { s with ports := r }

/-- A read of one field of RES (R22, R23): a value, or the fault of a field that holds none. -/
def readField (f : ResField) (res : Option Result) : Except Fault Reply :=
  match f, res with
  | .valid, r => .ok (.valid (validFlag r))
  | .outcome, some r => .ok (.outcome r.outcome)
  | .id, some (.success rec) => .ok (.id rec.id)
  | .channel, some (.success rec) => .ok (.channel rec.channel)
  | .batteryOk, some (.success rec) => .ok (.batteryOk rec.batteryOk)
  | .tempDc, some (.success rec) => .ok (.tempDc rec.tempDc)
  | f, _ => .error (.noValue f)

/-- What a read port answers: RES through R23 and R172, the constants the same at every time (R29). -/
def portValue (p : ReadPort) (s : State) : Except Fault Reply :=
  match p with
  | .res => if s.unspecified then .error .resUnspecified else .ok (.res s.res)
  | .field f => if s.unspecified then .error .resUnspecified else readField f s.res
  | .modelName => .ok (.modelName cfg.modelName)
  | .mic => .ok (.mic cfg.mic)
  | .fieldList => .ok (.fieldList cfg.fieldList)

/-- A host read: the reply is recorded and nothing else changes (R46, R177). -/
def readPort (p : ReadPort) (s : State) : Host.Outcome State Fault Refusal :=
  match portValue p s with
  | .ok v => .next { s with replies := v :: s.replies }
  | .error f => .fault f

end Sys2Proof.Machine
end

