-- ==== Sys2Proof/Machine/BitField.lean ====
section
/-! DEFINITION. The bit-field extractor's operations (spec/42_bitfield.md). Each puts its field on its own wire and
writes no field of RES. -/

namespace Sys2Proof.Machine

/-- HIGH_NIBBLE (R110). -/
def execHighNibble (b : Byte) (s : State) : Host.Outcome State Fault Refusal :=
  .next (s.drive { s.wires with nibbleHigh := some (highNibble b) })

/-- LOW_NIBBLE (R111). -/
def execLowNibble (b : Byte) (s : State) : Host.Outcome State Fault Refusal :=
  .next (s.drive { s.wires with nibbleLow := some (lowNibble b) })

/-- EXTRACT_CHECKSUM_RX (R112). -/
def execExtractChecksumRx (b0 : Byte) (s : State) : Host.Outcome State Fault Refusal :=
  .next (s.drive { s.wires with cRx := some (checksumRx b0) })

/-- EXTRACT_ID (R113). -/
def execExtractId (b0 b1 : Byte) (s : State) : Host.Outcome State Fault Refusal :=
  .next (s.drive { s.wires with id := some (deviceId b0 b1) })

/-- EXTRACT_TEMP_RAW (R114). -/
def execExtractTempRaw (b1 b2 : Byte) (s : State) : Host.Outcome State Fault Refusal :=
  .next (s.drive { s.wires with traw := some (tempRaw b1 b2) })

/-- EXTRACT_CHANNEL (R115). -/
def execExtractChannel (b3 : Byte) (s : State) : Host.Outcome State Fault Refusal :=
  .next (s.drive { s.wires with ch := some (channel b3) })

/-- EXTRACT_BATTERY (R116). -/
def execExtractBattery (b3 : Byte) (s : State) : Host.Outcome State Fault Refusal :=
  .next (s.drive { s.wires with bat := some (battery b3) })

/-- EXTRACT_FIRST_TX (R117): a wire only; neither RES nor the record has a field for it (D12). -/
def execExtractFirstTx (b3 : Byte) (s : State) : Host.Outcome State Fault Refusal :=
  .next (s.drive { s.wires with ftx := some (firstTx b3) })

end Sys2Proof.Machine
end

