-- ==== Sys2Proof/Machine/Checksum.lean ====
section
/-! DEFINITION. The checksum validator's operations (spec/44_checksum.md). -/

namespace Sys2Proof.Machine

/-- CHECKSUM_COMPUTE (R141): S and C_CALC. -/
def execChecksumCompute (b0 b1 b2 b3 : Byte) (s : State) : Host.Outcome State Fault Refusal :=
  .next (s.drive
    { s.wires with
      sum := some (nibbleSum b0 b1 b2 b3)
      cCalc := some (computedChecksum b0 b1 b2 b3) })

/-- CHECKSUM_COMPARE (R142): PASS or FAIL; on FAIL it is DECODE that writes RES. -/
def execChecksumCompare (cRx cCalc : Nibble) (s : State) : Host.Outcome State Fault Refusal :=
  .next (s.drive { s.wires with checksumGate := some (checksumGate cRx cCalc) })

end Sys2Proof.Machine
end

