-- ==== Sys2Proof/Machine/DecodeOp.lean ====
section
/-! DEFINITION. DECODE and RECORD_ASSEMBLE (spec/40_decode.md). -/

namespace Sys2Proof.Machine

/-- RECORD_ASSEMBLE(ID, CH, BAT, TEMP) (R85); TEMP_DC = sext_16(TEMP) (R131). -/
def recordAssemble (id : Byte) (ch : Channel) (bat : Flag) (temp : Int) : Record :=
  { id := id, channel := ch, batteryOk := bat, tempDc := BitVec.ofInt 16 temp }

/-- RECORD_ASSEMBLE as an operation (R85): the record on its wire. A TEMP outside the range R85 gives the operand
is refused (only an ill-formed instruction has one; log entry 14). -/
def execRecordAssemble (id : Byte) (ch : Channel) (bat : Flag) (temp : Int) (s : State) :
    Host.Outcome State Fault Refusal :=
  if tempInRange temp then
    .next (s.drive { s.wires with record := some (recordAssemble id ch bat temp) })
  else .refused .tempOutOfRange

/-- DECODE (R80): the two gates in order (R82), then the record; one write of RES on every path (R81). -/
def execDecode (r : Request) (s : State) : Host.Outcome State Fault Refusal :=
  if widthGate r.counts = .fail then raise .structuralMismatch s
  else
    let b0 := r.row1.b0
    let b1 := r.row1.b1
    let b2 := r.row1.b2
    let b3 := r.row1.b3
    let cRx := checksumRx b0
    let cCalc := computedChecksum b0 b1 b2 b3
    if checksumGate cRx cCalc = .fail then raise .integrityViolation s
    else
      let temp := signedTemp (tempRaw b1 b2)
      .next (s.writeRes (.success (recordAssemble (deviceId b0 b1) (channel b3) (battery b3) temp)))

end Sys2Proof.Machine
end

