-- ==== Sys2Proof/Machine/SignedValue.lean ====
section
/-! DEFINITION. The signed-value reconstructor as an operation of the machine (spec/43_signed_value.md). -/

namespace Sys2Proof.Machine

/-- SIGNED_RECON (R130). -/
def execSignedRecon (traw : RawTemp) (s : State) : Host.Outcome State Fault Refusal :=
  .next (s.drive { s.wires with temp := some (signedTemp traw) })

end Sys2Proof.Machine
end

