-- ==== Sys2Proof/Machine/WidthGate.lean ====
section
/-! DEFINITION. The row-width gate as an operation of the machine (spec/41_width_gate.md). -/

namespace Sys2Proof.Machine

/-- WIDTH_GATE (R100): PASS or FAIL of the seven counts; no field of RES is written. -/
def execWidthGate (n : RowCounts) (s : State) : Host.Outcome State Fault Refusal :=
  .next (s.drive { s.wires with widthGate := some (widthGate n) })

end Sys2Proof.Machine
end

