-- ==== Sys2Proof/Machine/Dispatch.lean ====
section
/-! DEFINITION. One arm per operation of the opcode table (spec/30_encoding.md R68). -/

namespace Sys2Proof.Machine

def exec (i : Instr) (s : State) : Host.Outcome State Fault Refusal :=
  match i with
  | .decode r => Sys2Proof.Machine.execDecode r s
  | .widthGate n => Sys2Proof.Machine.execWidthGate n s
  | .highNibble b => Sys2Proof.Machine.execHighNibble b s
  | .lowNibble b => Sys2Proof.Machine.execLowNibble b s
  | .extractChecksumRx b0 => Sys2Proof.Machine.execExtractChecksumRx b0 s
  | .extractId b0 b1 => Sys2Proof.Machine.execExtractId b0 b1 s
  | .extractTempRaw b1 b2 => Sys2Proof.Machine.execExtractTempRaw b1 b2 s
  | .extractChannel b3 => Sys2Proof.Machine.execExtractChannel b3 s
  | .extractBattery b3 => Sys2Proof.Machine.execExtractBattery b3 s
  | .extractFirstTx b3 => Sys2Proof.Machine.execExtractFirstTx b3 s
  | .signedRecon traw => Sys2Proof.Machine.execSignedRecon traw s
  | .checksumCompute b0 b1 b2 b3 => Sys2Proof.Machine.execChecksumCompute b0 b1 b2 b3 s
  | .checksumCompare cRx cCalc => Sys2Proof.Machine.execChecksumCompare cRx cCalc s
  | .recordAssemble id ch bat temp => Sys2Proof.Machine.execRecordAssemble id ch bat temp s

end Sys2Proof.Machine
end

