-- ==== Sys2Proof/Machine/Transactions.lean ====
section
/-! DEFINITION. The host's transactions on the block (spec/30_encoding.md R72, spec/70_reset_and_hazards.md): taking
the request word from the inputs, what may happen before a response, and one transaction as a whole. -/

namespace Sys2Proof.Machine

/-- The request word of a DECODE: the snapshot of the inputs (R45), packed as R64 packs it. It stands where a
processor's instruction fetch would (R26, log entry 1). -/
def fetch (s : State) : Except Refusal ReqWord :=
  match snapshot s.ports with
  | .ok r => .ok r.word
  | .error e => .error e

/-- What the host does between request and response. Reads see the RES from before this DECODE (R177); a change of the
inputs (R45, R175) or a RESET (R171) is given no meaning. -/
def runWindow : List WindowEvent → State → Host.Outcome State Fault Refusal
  | [], s => .next s
  | .read p :: es, s =>
    match readPort p s with
    | .next t => runWindow es t
    | .fault f => .fault f
    | .refused r => .refused r
  | .present r :: es, s => if r = s.ports then runWindow es s else .refused .inputsChanged
  | .reset :: _, _ => .refused .resetDuringDecode

/-- One DECODE as one atomic step (R81, R178): snapshot, what the host does meanwhile, then the operation itself, which
is the only thing that writes RES. -/
def transact (during : List WindowEvent) (s : State) : Host.Outcome State Fault Refusal :=
  match fetch s with
  | .error e => .refused e
  | .ok w =>
    match runWindow during s with
    | .next t => exec (decodeRequest w) t
    | .fault f => .fault f
    | .refused r => .refused r

/-- One host transaction. -/
def perform (e : HostEvent) (s : State) : Host.Outcome State Fault Refusal :=
  match e with
  | .present r => .next (s.presentInputs r)
  | .reset => .next s.applyReset
  | .request during => transact during s
  | .read p => readPort p s

/-- The host puts a request word on the inputs and requests its DECODE next. -/
def State.request (s : State) (w : ReqWord) : State :=
  { s with ports := Request.ofWord w, pending := .request [] :: s.pending }

end Sys2Proof.Machine
end

