-- ==== Sys2Proof/Machine/Step.lean ====
section
/-! DEFINITION. One step of the machine: the first host transaction that has not happened yet. -/

namespace Sys2Proof.Machine

/-- With no transaction pending nothing changes: only DECODE and RESET write RES (R20, R27), and a DECODE runs only on
a request (R68). -/
def step (s : State) : Host.Outcome State Fault Refusal :=
  match s.pending with
  | [] => .next s
  | e :: rest => perform e { s with pending := rest }

/-- The request word `w` (every bit above `nbits` 0) on the inputs, and its DECODE as the next transaction. -/
def State.withFetchWord (s : State) (nbits w : Nat) : State :=
  s.request (BitVec.ofNat 144 (w % 2 ^ nbits))

end Sys2Proof.Machine
end

