-- ==== Sys2Proof/Machine/HostSide.lean ====
section
/-! DEFINITION. The two boundaries the rules give the host: how a burst is presented on the inputs
(spec/20_memory.md R42, R43, R62; spec/92_eei_decisions.md D2) and the MeasurementRecord a SUCCESS result stands for
(spec/40_decode.md R88, spec/43_signed_value.md R132). -/

namespace Sys2Proof.Machine

/-- A row: one repetition's captured bits in the order received (R12); its bit count is its length. -/
abbrev BitRow := List Bool

/-- A burst: its rows, indexed from 0 (R12). -/
abbrev Burst := List BitRow

/-- A bit count as a ROW_BITS input: itself where 16 bits hold it, else some value other than FRAME_BITS (D2), which
one being left free (`wide`, log entry 11). -/
def presentCount (wide : Count) (n : Nat) : Count :=
  if n < 2 ^ cfg.rowCountW then BitVec.ofNat 16 n
  else if wide.toNat = cfg.frameBits then 65535#16
  else wide

/-- ROW_BITS[r] as the host presents it; a row the burst does not contain is presented as 0 (R42, D3). -/
def presentRowBits (b : Burst) (r : Nat) : Count :=
  match b[r]? with
  | some row => presentCount (Config.wideCount b r) row.length
  | none => 0#16

/-- Bit `j` of a row; where the row has no such bit the value is left free (`pad`; N7, R52, log entry 10). -/
def rowBit (pad : Nat → Bool) (row : BitRow) (j : Nat) : Bool := (row[j]?).getD (pad j)

/-- Byte `k` of a row, "most-significant bit first" (R43). -/
def rowByteOf (pad : Nat → Bool) (row : BitRow) (k : Nat) : Byte :=
  let bit := fun i => BitVec.ofBool (rowBit pad row (8 * k + i))
  bit 0 ++ bit 1 ++ bit 2 ++ bit 3 ++ bit 4 ++ bit 5 ++ bit 6 ++ bit 7

/-- The inputs the host presents for a burst (R41, R42): the counts of rows 1..7 and the bytes of row 1. -/
def presentBurst (b : Burst) : Request :=
  let row1 := (b[cfg.frameRow]?).getD []
  let pad := Config.padBit b
  { counts :=
      { n1 := presentRowBits b 1
        n2 := presentRowBits b 2
        n3 := presentRowBits b 3
        n4 := presentRowBits b 4
        n5 := presentRowBits b 5
        n6 := presentRowBits b 6
        n7 := presentRowBits b 7 }
    row1 :=
      { b0 := rowByteOf pad row1 0
        b1 := rowByteOf pad row1 1
        b2 := rowByteOf pad row1 2
        b3 := rowByteOf pad row1 3 } }

/-- The MeasurementRecord (R12, R88). The temperature is the exact rational number of R132; converting it to a float
or to text is the sink's job and outside the block (R4, U13). -/
structure MeasurementRecord where
  model : String
  id : Nat
  channel : Nat
  batteryOk : String
  temperatureC : Rat
  mic : String
deriving DecidableEq, Repr

/-- "OK" if RES.BATTERY_OK = 1 and "LOW" if it is 0 (R88). -/
def batteryText (b : Flag) : String := if b = 1#1 then "OK" else "LOW"

/-- The temperature in degrees Celsius a TEMP_DC stands for, exactly (R132). -/
def degreesC (t : TempDc) : Rat := (t.toInt : Rat) / (cfg.tempScale : Rat)

/-- What the host presents to the sink for a SUCCESS result (R88). -/
def measurementRecord (rec : Record) : MeasurementRecord :=
  { model := cfg.modelName
    id := rec.id.toNat
    channel := rec.channel.toNat
    batteryOk := batteryText rec.batteryOk
    temperatureC := degreesC rec.tempDc
    mic := cfg.mic }

/-- A value in a presented field. -/
inductive FieldValue where
  | text (s : String)
  | number (n : Nat)
  | rational (q : Rat)
deriving DecidableEq, Repr

/-- The record as the sink gets it: each value under its name, in the order of FIELD_LIST (R86, R88). -/
def MeasurementRecord.entries (m : MeasurementRecord) : List (String × FieldValue) :=
  List.zip cfg.fieldList
    [.text m.model, .number m.id, .number m.channel, .text m.batteryOk, .rational m.temperatureC,
      .text m.mic]

end Sys2Proof.Machine
end

