-- ==== Sys2Proof/Machine/Instances.lean ====
section
/-! DEFINITION. Several instances of the block (spec/60_exceptions.md R160): each has its own RES and its own inputs, and
they share nothing. Which instance steps next is the outside world's choice, an argument here (log entry 17). -/

namespace Sys2Proof.Machine

/-- One step of instance `k`; the others are as they were (R160).
DESIGN CHOICE, safe (log entry 17): where instance `k`'s step faults or is refused, the step of the whole list ends with
that fault or refusal and gives no next list, since the spec does not say what becomes of the others then; and an index no
instance has changes nothing. -/
def stepInstance (k : Nat) (ss : List State) : Host.Outcome (List State) Fault Refusal :=
  match ss[k]? with
  | none => .next ss
  | some s =>
    match step s with
    | .next t => .next (ss.set k t)
    | .fault f => .fault f
    | .refused r => .refused r

end Sys2Proof.Machine
end

