-- ==== Sys2Proof/Machine/Rsp.lean ====
section
/-! DEFINITION. The packed result word RSP (spec/30_encoding.md R65, R66): bits that hold no value are `none`
("They must not be read as zero"), and a word with the reserved outcome is refused (R70 c, U3). -/

namespace Sys2Proof.Machine

/-- The bits of a word, most significant first. -/
def bitsOf {n : Nat} (w : BitVec n) : List Bool := (List.range n).reverse.map w.getLsbD

/-- The RSP word of a SUCCESS result, in which every bit holds a value (R65). -/
def successWord (rec : Record) : RspWord :=
  1#1 ++ OutcomeCode.success.code ++ rec.id ++ rec.channel ++ rec.batteryOk ++ rec.tempDc

/-- RES as a packed RSP (R65), most significant bit first; `none` is the `x` of R65. -/
def packRsp : Option Result → List (Option Bool)
  | none => some false :: List.replicate 29 none
  | some (.success rec) => (bitsOf (successWord rec)).map some
  | some .structuralMismatch =>
    (some true :: (bitsOf OutcomeCode.structuralMismatch.code).map some) ++ List.replicate 27 none
  | some .integrityViolation =>
    (some true :: (bitsOf OutcomeCode.integrityViolation.code).map some) ++ List.replicate 27 none

/-- A word has the bits of a packed RSP wherever those hold a value. -/
def fitsRsp (w : RspWord) (p : List (Option Bool)) : Bool :=
  p.length == 30 && (List.zip (bitsOf w) p).all fun x =>
    match x.2 with
    | some b => x.1 == b
    | none => true

/-- The RES a packed word stands for (R65, R66); OUTCOME 3 and a TEMP_DC no DECODE produces (R22) are refused. -/
def unpackRsp (w : RspWord) : Except Refusal (Option Result) :=
  if w.getLsbD 29 = false then .ok none
  else
    match OutcomeCode.ofCode? (w.extractLsb' 27 2) with
    | none => .error (.badRsp .reservedOutcome)
    | some .structuralMismatch => .ok (some .structuralMismatch)
    | some .integrityViolation => .ok (some .integrityViolation)
    | some .success =>
      if tempInRange (w.extractLsb' 0 16).toInt then
        .ok (some (.success
          { id := w.extractLsb' 19 8, channel := w.extractLsb' 17 2,
            batteryOk := w.extractLsb' 16 1, tempDc := w.extractLsb' 0 16 }))
      else .error (.badRsp .tempOutOfRange)

end Sys2Proof.Machine
end

