-- ==== Sys2Proof/Machine/Sender.lean ====
section
/-! DEFINITION. The sender's side of the frame, by which test frames are built (spec/43_signed_value.md R134,
spec/44_checksum.md R145): fields into a frame word with the checksum nibble that passes. -/

namespace Sys2Proof.Machine

/-- The data fields of a frame word, everything but C_RX (R60). -/
structure FrameFields where
  id : Byte
  traw : RawTemp
  ch : Channel
  bat : Flag
  ftx : Flag
  rsv : Nibble
deriving DecidableEq, Repr

/-- The frame word with these fields and the given checksum nibble (R60's pattern string). -/
def FrameFields.wordWith (f : FrameFields) (c : Nibble) : FrameWord :=
  c ++ f.id ++ f.traw ++ f.ch ++ f.bat ++ f.ftx ++ f.rsv

/-- C_RX = (S - 1) mod 16 of the frame's own nibbles (R145). -/
def senderChecksum (w : FrameWord) : Nibble :=
  let f := FrameBytes.ofWord w
  computedChecksum f.b0 f.b1 f.b2 f.b3

/-- The frame a sender transmits: the fields, and the checksum nibble set by R145. -/
def senderWord (f : FrameFields) : FrameWord := f.wordWith (senderChecksum (f.wordWith 0))

/-- The inverse of SIGNED_RECON (R134): TEMP itself for 0..2048, TEMP + 4096 for -2047..-1. -/
def rawOfTemp (t : Int) : RawTemp :=
  if t < 0 then BitVec.ofInt 12 (t + (cfg.tempSubtrahend : Int)) else BitVec.ofInt 12 t

/-- Seven counts of exactly FRAME_BITS: the only counts that pass the gate (R100). -/
def frameCounts : RowCounts :=
  let c := BitVec.ofNat 16 cfg.frameBits
  ⟨c, c, c, c, c, c, c⟩

/-- The request that presents a frame word with all seven counts right (R64). -/
def frameRequest (w : FrameWord) : Request := ⟨frameCounts, FrameBytes.ofWord w⟩

end Sys2Proof.Machine
end

