-- ==== Sys2Proof/Machine/Sequencer.lean ====
section
/-! DEFINITION. The DECODE sequencer at stage level (spec/40_decode.md R80, R82; spec/30_encoding.md R68): which stage
operation runs next, given the values earlier stages left on the wires, and the run of the stages to the end.
The machine's own step takes a DECODE as one atomic operation (R81, R178); this is what that operation is made of. -/

namespace Sys2Proof.Machine

/-- A DECODE reaches at most this many stage operations; the nibble helpers run inside the extractors (R112 to R114, R141). -/
def stageCount : Nat := 11

/-- Stage 4 (R80): the fields, then the temperature, then the record, from the wires.
EXTRACT_FIRST_TX runs here too ("extracted internally", D12); R82 makes its place unobservable (log entry 12). -/
def recordStage (f : FrameBytes) (w : Wires) : Option Instr :=
  match w.id, w.traw, w.ch, w.bat, w.ftx with
  | none, _, _, _, _ => some (.extractId f.b0 f.b1)
  | some _, none, _, _, _ => some (.extractTempRaw f.b1 f.b2)
  | some _, some _, none, _, _ => some (.extractChannel f.b3)
  | some _, some _, some _, none, _ => some (.extractBattery f.b3)
  | some _, some _, some _, some _, none => some (.extractFirstTx f.b3)
  | some id, some traw, some ch, some bat, some _ =>
    match w.temp, w.record with
    | none, _ => some (.signedRecon traw)
    | some temp, none => some (.recordAssemble id ch bat temp)
    | some _, some _ => none

/-- The stage operation that runs next, or `none` where the DECODE has ended (R82): after a FAIL nothing more runs. -/
def nextStage (r : Request) (w : Wires) : Option Instr :=
  match w.widthGate with
  | none => some (.widthGate r.counts)
  | some .fail => none
  | some .pass =>
    match w.cRx, w.cCalc, w.checksumGate with
    | none, _, _ => some (.extractChecksumRx r.row1.b0)
    | some _, none, _ => some (.checksumCompute r.row1.b0 r.row1.b1 r.row1.b2 r.row1.b3)
    | some cRx, some cCalc, none => some (.checksumCompare cRx cCalc)
    | some _, some _, some .fail => none
    | some _, some _, some .pass => recordStage r.row1 w

/-- Run at most `n` stage operations, each by `exec`. -/
def runStages (r : Request) : Nat → State → Host.Outcome State Fault Refusal
  | 0, s => .next s
  | n + 1, s =>
    match nextStage r s.wires with
    | none => .next s
    | some i =>
      match exec i s with
      | .next t => runStages r n t
      | .fault f => .fault f
      | .refused e => .refused e

/-- The result the values on the wires stand for, once the DECODE has ended (R80, R154). -/
def wiresResult (w : Wires) : Option Result :=
  match w.widthGate, w.checksumGate, w.record with
  | some .fail, _, _ => some .structuralMismatch
  | some .pass, some .fail, _ => some .integrityViolation
  | some .pass, some .pass, some rec => some (.success rec)
  | _, _, _ => none

end Sys2Proof.Machine
end

