-- ==== Sys2Proof/Safety.lean ====
section
/-! DEFINITION. What counts as a legal state and a harmless wait, in the terms the claims use. -/

namespace Sys2Proof.Machine

/-- RES holds only what a DECODE can write: TEMP_DC is in -2047..2048 (R22, R131). -/
def resLegal : Option Result → Bool
  | some (.success rec) => tempInRange rec.tempDc.toInt
  | some .structuralMismatch => true
  | some .integrityViolation => true
  | none => true

/-- The invariant of the machine between transactions: RES is legal (R22, R131), and no intermediate value has outlived
its DECODE (R31). -/
def State.Inv (s : State) : Prop := resLegal s.res = true ∧ s.wires = Wires.idle

/-- What the host may do between request and response without the DECODE losing its meaning (R45, R171, R175, R177):
re-present the inputs that are there, and read what holds a value. -/
def harmless (s : State) : WindowEvent → Bool
  | .read p =>
    match portValue p s with
    | .ok _ => true
    | .error _ => false
  | .present r => decide (r = s.ports)
  | .reset => false

/-- Every event of a window is harmless. -/
def harmlessWindow (during : List WindowEvent) (s : State) : Bool := during.all (harmless s)

/-- What a window event adds to what the host has read: the reply of a read, nothing otherwise (R177). -/
def windowReply (s : State) : WindowEvent → Option Reply
  | .read p =>
    match portValue p s with
    | .ok v => some v
    | .error _ => none
  | .present _ => none
  | .reset => none

end Sys2Proof.Machine
end

