-- ==== Sys2Proof/Certificates/Slice0/Obligations.lean ====
section
/-! DEFINITION. The statements about the Frame parser, from the numbered rules of spec/. -/

open Sys2Proof Sys2Proof.Machine

/-! Constants, reset, and the words. -/

/-- R5: the constants have the default values of the table; MODEL_NAME and LATENCY are OPEN and not among them. -/
def Obligations.ConstantsHaveTheirDefaults : Prop :=
  cfg.frameBits = 28 ∧ cfg.gateFirstRow = 1 ∧ cfg.gateLastRow = 7 ∧ cfg.frameRow = 1
    ∧ cfg.frameBytes = 4 ∧ cfg.tempThreshold = 2048 ∧ cfg.tempSubtrahend = 4096
    ∧ cfg.tempScale = 10 ∧ cfg.checksumOffset = 1 ∧ cfg.checksumModulus = 16
    ∧ cfg.mic = "CHECKSUM"
    ∧ cfg.fieldList = ["model", "id", "channel", "battery_ok", "temperature_C", "mic"]
    ∧ cfg.rowCountW = 16 ∧ cfg.tempDcW = 16

/-- R30: after reset RES.VALID is 0, every other field of RES holds no value, and the constants read as ever. -/
def Obligations.ResetLeavesResWithoutValue : Prop :=
  State.reset.res = none
    ∧ portValue (.field .valid) State.reset = .ok (.valid 0#1)
    ∧ (∀ f : ResField, f ≠ .valid → portValue (.field f) State.reset = .error (.noValue f))
    ∧ portValue .modelName State.reset = .ok (.modelName cfg.modelName)
    ∧ portValue .mic State.reset = .ok (.mic "CHECKSUM")
    ∧ portValue .fieldList State.reset
        = .ok (.fieldList ["model", "id", "channel", "battery_ok", "temperature_C", "mic"])

/-- R170, R31: RESET makes RES `none` and changes no input, whatever RES was, and no intermediate value is left. That
the wires are cleared and that the pending transactions and the replies are kept is the model's reading (log entry 19,
DEDUCED), and so is that RES is specified from then on (log entry 7). -/
def Obligations.ResetTransactionClearsResOnly : Prop :=
  ∀ (s : State) (rest : List HostEvent),
    step { s with pending := .reset :: rest }
      = .next { s with res := none, unspecified := false, wires := Wires.idle, pending := rest }

/-- Words written out from the spec (R60, R64, 95_test_vectors.md P1, P2, P4 and section 2.3) are read as what they stand for. -/
def Obligations.WrittenWordsDecode : Prop :=
  decodeRequest 0x001C001C001C001C001C001C001C03456781#144
      = .decode ⟨⟨28, 28, 28, 28, 28, 28, 28⟩, ⟨0x03, 0x45, 0x67, 0x81⟩⟩
    ∧ decodeRequest 0x001C001C001C001B001C001C001CC3456781#144
      = .decode ⟨⟨28, 28, 28, 27, 28, 28, 28⟩, ⟨0xC3, 0x45, 0x67, 0x81⟩⟩
    ∧ decodeRequest 0x001C001C001C001C001C0000000003456781#144
      = .decode ⟨⟨28, 28, 28, 28, 28, 0, 0⟩, ⟨0x03, 0x45, 0x67, 0x81⟩⟩
    ∧ decodeAs .widthGate (.req 0x001C001C001C001B001C001C001CC3456781#144)
      = .ok (.widthGate ⟨28, 28, 28, 27, 28, 28, 28⟩)
    ∧ decodeAs .extractId (.frame 0xC3456781#32) = .ok (.extractId 0xC3 0x45)
    ∧ decodeAs .signedRecon (.frame 0xC3456781#32) = .ok (.signedRecon 1383#12)
    ∧ decodeAs .checksumCompare (.frame 0xC3456781#32) = .ok (.checksumCompare 12#4 0#4)
    ∧ decodeAs .recordAssemble (.rsp 0x21A40567#30) = .ok (.recordAssemble 52#8 2#2 0#1 1383)

/-- R43: W is b0 ++ b1 ++ b2 ++ b3, b0 most significant; the first frame bit is W[31], and within each byte bit 7 comes
first. -/
def Obligations.FrameWordIsBigEndian : Prop :=
  ∀ f : FrameBytes,
    f.word.extractLsb' 24 8 = f.b0 ∧ f.word.extractLsb' 16 8 = f.b1
      ∧ f.word.extractLsb' 8 8 = f.b2 ∧ f.word.extractLsb' 0 8 = f.b3
      ∧ ∀ j, j < 8 → frameBit f.word j = f.b0.getLsbD (7 - j) ∧ frameBit f.word (8 + j) = f.b1.getLsbD (7 - j)
        ∧ frameBit f.word (16 + j) = f.b2.getLsbD (7 - j) ∧ frameBit f.word (24 + j) = f.b3.getLsbD (7 - j)

/-- R60: every field of a frame built from its fields stands in the bits the table gives it. -/
def Obligations.FrameFieldsStandInTheirSlices : Prop :=
  ∀ (f : FrameFields) (c : Nibble),
    let w := f.wordWith c
    w.extractLsb' 28 4 = c ∧ w.extractLsb' 20 8 = f.id ∧ w.extractLsb' 8 12 = f.traw
      ∧ w.extractLsb' 6 2 = f.ch ∧ w.extractLsb' 5 1 = f.bat ∧ w.extractLsb' 4 1 = f.ftx
      ∧ w.extractLsb' 0 4 = f.rsv

/-- R62 and R43 at the presentation of a burst: bit j of row 1, in the order received, is W[31 - j]. -/
def Obligations.FrameBitsArriveMostSignificantFirst : Prop :=
  ∀ (b : Burst) (row : BitRow) (j : Nat) (x : Bool),
    b[1]? = some row → j < 32 → row[j]? = some x →
      frameBit (presentBurst b).row1.word j = x

/-- R64: a request word has one reading and a request one word, and the bytes of the word, most significant first, are
read as that request. The order of the bytes is the model's choice (log entry 16). -/
def Obligations.RequestWordsAndRequestsCorrespond : Prop :=
  (∀ r : Request, Request.ofWord r.word = r)
    ∧ (∀ w : ReqWord, (Request.ofWord w).word = w)
    ∧ (∀ w : ReqWord, decodeBytes (ReqWord.bytes w) = .ok (.decode (Request.ofWord w)))

/-- Decode and encode agree, for every well-formed instruction of every row, with every operand at every value. -/
def Obligations.EncodedInstructionsDecodeToThemselves : Prop :=
  ∀ i : Instr, i.wf = true → decodeAs i.row (encode i) = .ok i

/-- R69, R68: every 144-bit word is a legal request: it decodes to a well-formed DECODE, and that DECODE completes with
a result. -/
def Obligations.EveryRequestWordIsLegal : Prop :=
  ∀ (w : ReqWord) (s : State),
    ∃ r res, decodeRequest w = .decode r ∧ (Instr.decode r).wf = true
      ∧ exec (decodeRequest w) s
          = .next { s with res := some res, unspecified := false, wires := Wires.idle }

/-! The stage operations: what each computes, that it completes, and that it changes nothing but its own wire. -/

/-- R100: PASS exactly when each of the seven counts is 28; on FAIL a DECODE of those counts, with any frame, writes
STRUCTURAL_MISMATCH. -/
def Obligations.WidthGateTestsExactEquality : Prop :=
  ∀ (n : RowCounts) (s : State),
    let wide := n.n1.toNat = 28 ∧ n.n2.toNat = 28 ∧ n.n3.toNat = 28 ∧ n.n4.toNat = 28
      ∧ n.n5.toNat = 28 ∧ n.n6.toNat = 28 ∧ n.n7.toNat = 28
    exec (.widthGate n) s
        = .next { s with wires := { s.wires with widthGate := some (if wide then .pass else .fail) } }
      ∧ (¬wide → ∀ f : FrameBytes, exec (.decode ⟨n, f⟩) s
          = .next { s with res := some .structuralMismatch, unspecified := false, wires := Wires.idle })

/-- R110: HIGH_NIBBLE is b[7:4], the byte shifted right by 4. -/
def Obligations.HighNibbleIsUpperHalf : Prop :=
  ∀ (b : Byte) (s : State),
    exec (.highNibble b) s
        = .next { s with wires := { s.wires with nibbleHigh := some (b.extractLsb' 4 4) } }
      ∧ (b.extractLsb' 4 4).toNat = b.toNat / 16

/-- R111: LOW_NIBBLE is b[3:0], the byte modulo 16. -/
def Obligations.LowNibbleIsLowerHalf : Prop :=
  ∀ (b : Byte) (s : State),
    exec (.lowNibble b) s
        = .next { s with wires := { s.wires with nibbleLow := some (b.extractLsb' 0 4) } }
      ∧ (b.extractLsb' 0 4).toNat = b.toNat % 16

/-- R112: C_RX = HIGH_NIBBLE(b0) = W[31:28]. -/
def Obligations.ChecksumRxIsTopNibble : Prop :=
  ∀ (f : FrameBytes) (s : State),
    exec (.extractChecksumRx f.b0) s
        = .next { s with wires := { s.wires with cRx := some (f.word.extractLsb' 28 4) } }
      ∧ f.word.extractLsb' 28 4 = highNibble f.b0

/-- R113: ID = (LOW_NIBBLE(b0) << 4) | HIGH_NIBBLE(b1) = W[27:20]. -/
def Obligations.IdSpansTwoBytes : Prop :=
  ∀ (f : FrameBytes) (s : State),
    exec (.extractId f.b0 f.b1) s
        = .next { s with wires := { s.wires with id := some (f.word.extractLsb' 20 8) } }
      ∧ (f.word.extractLsb' 20 8).toNat
          = ((lowNibble f.b0).toNat <<< 4) ||| (highNibble f.b1).toNat

/-- R114: TRAW = (LOW_NIBBLE(b1) << 8) | b2 = W[19:8]. -/
def Obligations.RawTemperatureSpansTwoBytes : Prop :=
  ∀ (f : FrameBytes) (s : State),
    exec (.extractTempRaw f.b1 f.b2) s
        = .next { s with wires := { s.wires with traw := some (f.word.extractLsb' 8 12) } }
      ∧ (f.word.extractLsb' 8 12).toNat = ((lowNibble f.b1).toNat <<< 8) ||| f.b2.toNat

/-- R115: CH = (b3 >> 6) & 0x3 = W[7:6], unsigned 0..3. -/
def Obligations.ChannelIsUnsignedTwoBits : Prop :=
  ∀ (f : FrameBytes) (s : State),
    exec (.extractChannel f.b3) s
        = .next { s with wires := { s.wires with ch := some (f.word.extractLsb' 6 2) } }
      ∧ (f.word.extractLsb' 6 2).toNat = f.b3.toNat >>> 6 &&& 3

/-- R116: BAT = (b3 >> 5) & 0x1 = W[5]; 1 is presented as "OK" and 0 as "LOW". -/
def Obligations.BatteryBitSetMeansOk : Prop :=
  ∀ (f : FrameBytes) (s : State),
    exec (.extractBattery f.b3) s
        = .next { s with wires := { s.wires with bat := some (f.word.extractLsb' 5 1) } }
      ∧ (f.word.extractLsb' 5 1).toNat = f.b3.toNat >>> 5 &&& 1
      ∧ batteryText (f.word.extractLsb' 5 1) = (if f.b3.getLsbD 5 then "OK" else "LOW")

/-- R117: FTX = W[4], on its own wire. Flipping it alone moves the computed checksum by one (mod 16), and turns a frame
that was valid into an INTEGRITY_VIOLATION. -/
def Obligations.FirstTxIsCoveredThoughNotOutput : Prop :=
  ∀ (n : RowCounts) (f : FrameBytes) (s : State),
    let g : FrameBytes := { f with b3 := f.b3 ^^^ 0x10#8 }
    exec (.extractFirstTx f.b3) s
        = .next { s with wires := { s.wires with ftx := some (f.word.extractLsb' 4 1) } }
      ∧ (f.word.extractLsb' 4 1).toNat = f.b3.toNat >>> 4 &&& 1
      ∧ (computedChecksum g.b0 g.b1 g.b2 g.b3 = computedChecksum f.b0 f.b1 f.b2 f.b3 + 1
          ∨ computedChecksum g.b0 g.b1 g.b2 g.b3 = computedChecksum f.b0 f.b1 f.b2 f.b3 - 1)
      ∧ ∀ rec, exec (.decode ⟨n, f⟩) s
            = .next { s with res := some (.success rec), unspecified := false, wires := Wires.idle } →
          exec (.decode ⟨n, g⟩) s
            = .next { s with res := some .integrityViolation, unspecified := false, wires := Wires.idle }

/-- R130: TRAW above 2048, strictly, stands for TRAW - 4096, else for itself; the result lies in -2047..2048. -/
def Obligations.SignedReconSubtractsAboveThreshold : Prop :=
  ∀ (traw : RawTemp) (s : State),
    ∃ temp : Int,
      exec (.signedRecon traw) s = .next { s with wires := { s.wires with temp := some temp } }
        ∧ temp = (if 2048 < traw.toNat then (traw.toNat : Int) - 4096 else (traw.toNat : Int))
        ∧ -2047 ≤ temp ∧ temp ≤ 2048

/-- R133: SIGNED_RECON agrees with 12-bit two's complement at every TRAW except 2048, which it reads as +2048. -/
def Obligations.SignedReconIsNotTwosComplementAt2048 : Prop :=
  ∀ (traw : RawTemp) (s : State),
    (exec (.signedRecon traw) s = .next { s with wires := { s.wires with temp := some traw.toInt } }
        ↔ traw ≠ 2048#12)
      ∧ exec (.signedRecon 2048#12) s = .next { s with wires := { s.wires with temp := some 2048 } }

/-- R134: SIGNED_RECON is a bijection from 0..4095 onto -2047..2048, with the inverse R134 gives. -/
def Obligations.SignedReconIsBijective : Prop :=
  (∀ (t : Int) (s : State), -2047 ≤ t → t ≤ 2048 →
      exec (.signedRecon (BitVec.ofInt 12 (if t < 0 then t + 4096 else t))) s
        = .next { s with wires := { s.wires with temp := some t } })
    ∧ (∀ (a b : RawTemp) (s : State), exec (.signedRecon a) s = exec (.signedRecon b) s → a = b)

/-- R141, R63: S is the sum of the six nibbles W[27:24]..W[7:4], at most 90, and C_CALC = (S - 1) mod 16 with the
non-negative remainder. -/
def Obligations.ChecksumComputeSumsSixNibbles : Prop :=
  ∀ (f : FrameBytes) (s : State),
    let w := f.word
    let sum := (w.extractLsb' 24 4).toNat + (w.extractLsb' 20 4).toNat + (w.extractLsb' 16 4).toNat
      + (w.extractLsb' 12 4).toNat + (w.extractLsb' 8 4).toNat + (w.extractLsb' 4 4).toNat
    sum ≤ 90 ∧ ∃ c : Nibble,
      exec (.checksumCompute f.b0 f.b1 f.b2 f.b3) s
          = .next { s with wires := { s.wires with sum := some sum, cCalc := some c } }
        ∧ (c.toNat : Int) = ((sum : Int) - 1) % 16 ∧ c.toNat = (sum + 15) % 16

/-- R142: PASS exactly when the two nibbles are equal; on FAIL, where the width gate has passed, a DECODE whose C_RX and
C_CALC they are writes INTEGRITY_VIOLATION. -/
def Obligations.ChecksumCompareTestsEquality : Prop :=
  ∀ (a b : Nibble) (s : State),
    exec (.checksumCompare a b) s
        = .next { s with wires := { s.wires with
            checksumGate := some (if a.toNat = b.toNat then .pass else .fail) } }
      ∧ ∀ f : FrameBytes, a ≠ b → checksumRx f.b0 = a → computedChecksum f.b0 f.b1 f.b2 f.b3 = b →
          exec (.decode ⟨⟨28, 28, 28, 28, 28, 28, 28⟩, f⟩) s
            = .next { s with res := some .integrityViolation, unspecified := false, wires := Wires.idle }

/-- R85, R131: RECORD_ASSEMBLE completes on every operand R85 gives it, and the record holds ID, CH, BAT and TEMP as a
16-bit two's-complement number. -/
def Obligations.RecordHoldsTheFields : Prop :=
  ∀ (id : Byte) (ch : Channel) (bat : Flag) (temp : Int) (s : State), -2047 ≤ temp → temp ≤ 2048 →
    ∃ t : TempDc, t.toInt = temp ∧
      exec (.recordAssemble id ch bat temp) s
        = .next { s with wires := { s.wires with record := some ⟨id, ch, bat, t⟩ } }

/-- The model's choice (log entry 14): RECORD_ASSEMBLE is refused on exactly the integers R85 does not give it. -/
def Obligations.RecordRefusedOutsideRangeOnly : Prop :=
  ∀ (id : Byte) (ch : Channel) (bat : Flag) (temp : Int) (s : State),
    exec (.recordAssemble id ch bat temp) s = .refused .tempOutOfRange ↔ (temp < -2047 ∨ 2048 < temp)

/-- R11: a stage operation writes no RES field and nothing else but the intermediate values; this is the frame of all
thirteen stages. -/
def Obligations.StagesChangeOnlyIntermediateValues : Prop :=
  ∀ (i : Instr) (s t : State), (∀ r, i ≠ .decode r) → exec i s = .next t →
    t = { s with wires := t.wires }

/-! DECODE. -/

/-- R80, R154: the three results of a DECODE, each with its condition on the counts and on W, the gates in their order,
and the whole next state: RES alone is written, and no intermediate value is left. -/
def Obligations.DecodeGivesItsThreeResults : Prop :=
  ∀ (r : Request) (s : State),
    let n := r.counts
    let w := r.row1.word
    let wide := n.n1.toNat = 28 ∧ n.n2.toNat = 28 ∧ n.n3.toNat = 28 ∧ n.n4.toNat = 28 ∧ n.n5.toNat = 28
      ∧ n.n6.toNat = 28 ∧ n.n7.toNat = 28
    let sum := (w.extractLsb' 24 4).toNat + (w.extractLsb' 20 4).toNat + (w.extractLsb' 16 4).toNat
      + (w.extractLsb' 12 4).toNat + (w.extractLsb' 8 4).toNat + (w.extractLsb' 4 4).toNat
    let traw := (w.extractLsb' 8 12).toNat
    (¬wide → exec (.decode r) s
        = .next { s with res := some .structuralMismatch, unspecified := false, wires := Wires.idle })
    ∧ (wide → ((w.extractLsb' 28 4).toNat : Int) ≠ ((sum : Int) - 1) % 16 → exec (.decode r) s
        = .next { s with res := some .integrityViolation, unspecified := false, wires := Wires.idle })
    ∧ (wide → ((w.extractLsb' 28 4).toNat : Int) = ((sum : Int) - 1) % 16 → ∃ t : TempDc,
        t.toInt = (if 2048 < traw then (traw : Int) - 4096 else (traw : Int))
        ∧ exec (.decode r) s
          = .next { s with
              res := some (.success ⟨w.extractLsb' 20 8, w.extractLsb' 6 2, w.extractLsb' 5 1, t⟩)
              unspecified := false
              wires := Wires.idle })

/-- R80, R82, R68: running the stage operations one after another, each by `exec` on what the earlier ones left on the
wires, ends, writes no RES, and leaves exactly the result that DECODE writes. The place of EXTRACT_FIRST_TX among them is
the model's choice (log entry 12), which R82 makes unobservable. -/
def Obligations.StagesInSequenceGiveTheDecode : Prop :=
  ∀ (r : Request) (s : State), s.wires = Wires.idle →
    ∃ t res, runStages r stageCount s = .next t
      ∧ nextStage r t.wires = none
      ∧ t = { s with wires := t.wires }
      ∧ wiresResult t.wires = some res
      ∧ exec (.decode r) s = .next { s with res := some res, unspecified := false }

/-- R24: a DECODE's result is a function of its request alone; and no operation reads RES: with any other RES in its
place, every operation that completes still completes and puts the same values on the wires. -/
def Obligations.NoOperationReadsRes : Prop :=
  (∀ r : Request, ∃ res, ∀ s : State,
    exec (.decode r) s = .next { s with res := some res, unspecified := false, wires := Wires.idle })
  ∧ ∀ (i : Instr) (s t : State) (x : Option Result) (u : Bool), exec i s = .next t →
      ∃ t', exec i { s with res := x, unspecified := u } = .next t' ∧ t'.wires = t.wires

/-- R103, R52: where any of the seven counts is not 28 the result is STRUCTURAL_MISMATCH "regardless of row content". -/
def Obligations.WrongWidthIgnoresRowContent : Prop :=
  ∀ (n : RowCounts) (f g : FrameBytes) (s : State), n ≠ ⟨28, 28, 28, 28, 28, 28, 28⟩ →
    exec (.decode ⟨n, f⟩) s
        = .next { s with res := some .structuralMismatch, unspecified := false, wires := Wires.idle }
      ∧ exec (.decode ⟨n, g⟩) s = exec (.decode ⟨n, f⟩) s

/-- R118: any two values of W[3:0] give the same result. -/
def Obligations.ReservedNibbleNeverMatters : Prop :=
  ∀ (n : RowCounts) (w v : FrameWord) (s : State), w.extractLsb' 4 28 = v.extractLsb' 4 28 →
    exec (.decode ⟨n, FrameBytes.ofWord w⟩) s = exec (.decode ⟨n, FrameBytes.ofWord v⟩) s

/-- R144: changing one covered nibble changes C_CALC; so a frame that decoded, with exactly one of its seven nibbles
W[31:28]..W[7:4] changed, C_RX included, gives INTEGRITY_VIOLATION; changes whose sum is 0 mod 16 leave C_CALC as it was. -/
def Obligations.SingleNibbleChangesAreCaught : Prop :=
  (∀ (w v : FrameWord) (k : Fin 6),
    let f := FrameBytes.ofWord w
    let g := FrameBytes.ofWord v
    v.extractLsb' (24 - 4 * k.val) 4 ≠ w.extractLsb' (24 - 4 * k.val) 4 →
    (∀ j : Fin 6, j ≠ k → v.extractLsb' (24 - 4 * j.val) 4 = w.extractLsb' (24 - 4 * j.val) 4) →
    computedChecksum g.b0 g.b1 g.b2 g.b3 ≠ computedChecksum f.b0 f.b1 f.b2 f.b3)
  ∧ (∀ (n : RowCounts) (w v : FrameWord) (k : Fin 7) (s : State) (rec : Record),
    exec (.decode ⟨n, FrameBytes.ofWord w⟩) s
        = .next { s with res := some (.success rec), unspecified := false, wires := Wires.idle } →
    v.extractLsb' (28 - 4 * k.val) 4 ≠ w.extractLsb' (28 - 4 * k.val) 4 →
    (∀ j : Fin 7, j ≠ k → v.extractLsb' (28 - 4 * j.val) 4 = w.extractLsb' (28 - 4 * j.val) 4) →
    exec (.decode ⟨n, FrameBytes.ofWord v⟩) s
        = .next { s with res := some .integrityViolation, unspecified := false, wires := Wires.idle })
  ∧ (∀ f g : FrameBytes,
      nibbleSum f.b0 f.b1 f.b2 f.b3 % 16 = nibbleSum g.b0 g.b1 g.b2 g.b3 % 16 →
      computedChecksum f.b0 f.b1 f.b2 f.b3 = computedChecksum g.b0 g.b1 g.b2 g.b3)

/-- R145: for every W[27:0] exactly one of the 16 values of C_RX passes, and it is (S - 1) mod 16. -/
def Obligations.ExactlyOneChecksumNibblePasses : Prop :=
  ∀ (d : BitVec 28) (s : State),
    let sum := (d.extractLsb' 24 4).toNat + (d.extractLsb' 20 4).toNat + (d.extractLsb' 16 4).toNat
      + (d.extractLsb' 12 4).toNat + (d.extractLsb' 8 4).toNat + (d.extractLsb' 4 4).toNat
    ∃ c : Nibble, (c.toNat : Int) = ((sum : Int) - 1) % 16
      ∧ ∀ x : Nibble, (∃ rec, exec (.decode (frameRequest (x ++ d))) s
          = .next { s with res := some (.success rec), unspecified := false, wires := Wires.idle })
            ↔ x = c

/-- 95_test_vectors.md S3: any id, channel, battery flag and raw temperature (and any FTX and RSV), sent with a correctly
computed checksum nibble, decode to SUCCESS with the same fields and the reconstructed temperature. -/
def Obligations.SentFramesDecodeToTheirFields : Prop :=
  ∀ (f : FrameFields) (s : State), ∃ t : TempDc,
    t.toInt = (if 2048 < f.traw.toNat then (f.traw.toNat : Int) - 4096 else (f.traw.toNat : Int))
    ∧ exec (.decode (frameRequest (senderWord f))) s
        = .next { s with res := some (.success ⟨f.id, f.ch, f.bat, t⟩), unspecified := false,
                         wires := Wires.idle }

/-- R84, R23: a DECODE overwrites all of RES, so its next state is the same whatever RES held before, an earlier SUCCESS
included; and where it fails (a count other than 28, or C_RX other than (S - 1) mod 16) it completes and every read of a
record field afterwards faults with `noValue`. That this holds from power-up too is log entry 7 (DEDUCED). -/
def Obligations.FailureHidesAnEarlierRecord : Prop :=
  ∀ (r : Request) (s : State),
    let n := r.counts
    let w := r.row1.word
    let wide := n.n1.toNat = 28 ∧ n.n2.toNat = 28 ∧ n.n3.toNat = 28 ∧ n.n4.toNat = 28 ∧ n.n5.toNat = 28
      ∧ n.n6.toNat = 28 ∧ n.n7.toNat = 28
    let sum := (w.extractLsb' 24 4).toNat + (w.extractLsb' 20 4).toNat + (w.extractLsb' 16 4).toNat
      + (w.extractLsb' 12 4).toNat + (w.extractLsb' 8 4).toNat + (w.extractLsb' 4 4).toNat
    ∃ t, exec (.decode r) s = .next t
      ∧ (∀ (old : Option Result) (u : Bool), exec (.decode r) { s with res := old, unspecified := u } = .next t)
      ∧ (¬wide ∨ ((w.extractLsb' 28 4).toNat : Int) ≠ ((sum : Int) - 1) % 16 →
          ∀ (f : ResField) (rest : List HostEvent), f ≠ .valid → f ≠ .outcome →
            step { t with pending := .read (.field f) :: rest } = .fault (.noValue f))

/-! Reading RES and the constants. -/

/-- R23: what a read of each field of RES answers, and that it faults exactly where the field holds no value: a reply is
recorded and nothing else changes. READ RES answers RES whole, NONE while it is `none` and else the result it holds
(R72, R177), and never faults. -/
def Obligations.ReadsFaultWhereNoValueIsHeld : Prop :=
  ∀ (s : State) (rest : List HostEvent) (f : ResField), s.unspecified = false →
    let answer := step { s with pending := .read (.field f) :: rest }
    let replies := fun v => Host.Outcome.next { s with pending := rest, replies := v :: s.replies }
    step { s with pending := .read .res :: rest } = replies (.res s.res)
    ∧ (s.res = none → f = .valid → answer = replies (.valid 0#1))
    ∧ (s.res ≠ none → f = .valid → answer = replies (.valid 1#1))
    ∧ (s.res = none → f ≠ .valid → answer = .fault (.noValue f))
    ∧ (s.res = some .structuralMismatch → f = .outcome → answer = replies (.outcome .structuralMismatch))
    ∧ (s.res = some .integrityViolation → f = .outcome → answer = replies (.outcome .integrityViolation))
    ∧ ((s.res = some .structuralMismatch ∨ s.res = some .integrityViolation) →
        f ≠ .valid → f ≠ .outcome → answer = .fault (.noValue f))
    ∧ ∀ rec, s.res = some (.success rec) →
        (f = .outcome → answer = replies (.outcome .success))
        ∧ (f = .id → answer = replies (.id rec.id))
        ∧ (f = .channel → answer = replies (.channel rec.channel))
        ∧ (f = .batteryOk → answer = replies (.batteryOk rec.batteryOk))
        ∧ (f = .tempDc → answer = replies (.tempDc rec.tempDc))

/-- R29, R86: the constants read the same at every time, whatever RES holds, and MODEL_NAME and MIC stand in the record
of every SUCCESS result. -/
def Obligations.ConstantsReadTheSameAlways : Prop :=
  ∀ (s : State) (rest : List HostEvent),
    step { s with pending := .read .mic :: rest }
        = .next { s with pending := rest, replies := .mic "CHECKSUM" :: s.replies }
    ∧ step { s with pending := .read .modelName :: rest }
        = .next { s with pending := rest, replies := .modelName cfg.modelName :: s.replies }
    ∧ step { s with pending := .read .fieldList :: rest }
        = .next { s with
            pending := rest
            replies := .fieldList ["model", "id", "channel", "battery_ok", "temperature_C", "mic"]
              :: s.replies }
    ∧ ∀ rec : Record, (measurementRecord rec).model = cfg.modelName ∧ (measurementRecord rec).mic = "CHECKSUM"

/-- R177: a read after the response returns that DECODE's result, whatever RES was before. -/
def Obligations.ReadAfterResponseReturnsTheResult : Prop :=
  ∀ (s : State) (rest : List HostEvent),
    ∃ t u res, step { s with pending := .request [] :: .read .res :: rest } = .next t
      ∧ exec (.decode s.ports) s
          = .next { s with res := some res, unspecified := false, wires := Wires.idle }
      ∧ step t = .next u
      ∧ u = { s with res := some res, unspecified := false, wires := Wires.idle, pending := rest,
                     replies := .res (some res) :: s.replies }

/-- R172, U5: at power-up a read of RES faults; a RESET makes RES `none` and a DECODE makes it that DECODE's own result,
and a read then answers it. The flag `unspecified`, and that a RESET or a DECODE ends it, are the model's (log entry 7,
DESIGN CHOICE and DEDUCED). -/
def Obligations.PowerUpReadsFaultUntilReset : Prop :=
  ∀ (s : State) (rest : List HostEvent) (f : ResField), s.unspecified = true →
    step { s with pending := .read .res :: rest } = .fault .resUnspecified
    ∧ step { s with pending := .read (.field f) :: rest } = .fault .resUnspecified
    ∧ (∃ t, step { s with pending := .reset :: rest } = .next t ∧ t.unspecified = false ∧ t.res = none
        ∧ portValue .res t = .ok (.res none))
    ∧ ∃ t res, exec (.decode s.ports) s
          = .next { s with res := some res, unspecified := false, wires := Wires.idle }
        ∧ step { s with pending := .request [] :: rest } = .next t
        ∧ t = { s with res := some res, unspecified := false, wires := Wires.idle, pending := rest }
        ∧ portValue .res t = .ok (.res (some res))

/-- R88, R132: the MeasurementRecord of a SUCCESS result: its values under the names of FIELD_LIST in that order, the
temperature being exactly TEMP_DC / 10. -/
def Obligations.MeasurementRecordPresentsTheResult : Prop :=
  ∀ rec : Record,
    let m := measurementRecord rec
    m.entries.map Prod.fst = ["model", "id", "channel", "battery_ok", "temperature_C", "mic"]
    ∧ m.entries.map Prod.snd
        = [.text cfg.modelName, .number rec.id.toNat, .number rec.channel.toNat,
            .text (if rec.batteryOk.toNat = 1 then "OK" else "LOW"), .rational m.temperatureC,
            .text "CHECKSUM"]
    ∧ m.temperatureC * 10 = (rec.tempDc.toInt : Rat)

/-! Steps and whole-machine rules. -/

/-- A step whose transaction is a DECODE request takes the snapshot of the inputs (R45), reads it as the instruction
`decodeRequest` gives, and runs that instruction, by `exec`, after what the host does meanwhile. -/
def Obligations.StepRunsTheRequestedInstruction : Prop :=
  ∀ (s t : State) (during : List WindowEvent) (rest : List HostEvent),
    runWindow during { s with pending := rest } = .next t →
    fetch s = .ok s.ports.word ∧ decodeRequest s.ports.word = .decode s.ports
      ∧ step { s with pending := .request during :: rest } = exec (decodeRequest s.ports.word) t

/-- The next step after `withFetchWord` runs the DECODE of that word, with nothing else of the state changed. -/
def Obligations.FetchWordRunsNext : Prop :=
  ∀ (s : State) (nbits w : Nat),
    let r := Request.ofWord (BitVec.ofNat 144 (w % 2 ^ nbits))
    step (s.withFetchWord nbits w) = exec (.decode r) { s with ports := r }

/-- The transactions that are no DECODE: with none pending nothing changes; presenting inputs changes the inputs alone
(R174); a read that answers changes what the host has read alone. -/
def Obligations.OtherTransactionsChangeOneThing : Prop :=
  ∀ (s : State) (rest : List HostEvent),
    (s.pending = [] → step s = .next s)
    ∧ (∀ r, step { s with pending := .present r :: rest } = .next { s with pending := rest, ports := r })
    ∧ (∀ p v, portValue p s = .ok v → step { s with pending := .read p :: rest }
        = .next { s with pending := rest, replies := v :: s.replies })

/-- R178, R177, R81, R45: a DECODE completes in one step, with one write of RES and the result of the inputs at the
request, and every read in between answers from the RES before it, in full. The premise is the model's (log entry 2): in
between the host only re-presents the inputs that are there (no change: DEDUCED) and reads only what holds a value (a
read that faults stops the run: `FaultingReadDuringDecodeStopsTheRun`). -/
def Obligations.DecodeCompletesAndReadsSeeThePreviousRes : Prop :=
  ∀ (s : State) (during : List WindowEvent) (rest : List HostEvent), harmlessWindow during s = true →
    ∃ res, exec (.decode s.ports) s
        = .next { s with res := some res, unspecified := false, wires := Wires.idle }
      ∧ step { s with pending := .request during :: rest }
          = .next { s with res := some res, unspecified := false, wires := Wires.idle, pending := rest,
                           replies := (during.filterMap (windowReply s)).reverse ++ s.replies }

/-- R45, R175: a change of the inputs between a request and its response is refused, not merged, wherever it stands. -/
def Obligations.InputChangeDuringDecodeIsRefused : Prop :=
  ∀ (s : State) (before after : List WindowEvent) (rest : List HostEvent) (r : Request),
    harmlessWindow before s = true → r ≠ s.ports →
    step { s with pending := .request (before ++ .present r :: after) :: rest } = .refused .inputsChanged

/-- R171: a RESET while a DECODE is in progress is refused; one between DECODEs is always legal. -/
def Obligations.ResetDuringDecodeIsRefused : Prop :=
  ∀ (s : State) (before after : List WindowEvent) (rest : List HostEvent),
    (harmlessWindow before s = true →
      step { s with pending := .request (before ++ .reset :: after) :: rest } = .refused .resetDuringDecode)
    ∧ ∃ t, step { s with pending := .reset :: rest } = .next t ∧ t.pending = rest

/-- R41: the burst view has RowBits(1..7) and RowByte(1, 0..3), each answering its own input, and a read of any other
location is refused. -/
def Obligations.BurstViewHasExactlyItsLocations : Prop :=
  ∀ (v : Request) (r k : Nat),
    rowBits v 1 = .ok v.counts.n1 ∧ rowBits v 2 = .ok v.counts.n2 ∧ rowBits v 3 = .ok v.counts.n3
    ∧ rowBits v 4 = .ok v.counts.n4 ∧ rowBits v 5 = .ok v.counts.n5 ∧ rowBits v 6 = .ok v.counts.n6
    ∧ rowBits v 7 = .ok v.counts.n7
    ∧ (rowBits v r = .error (.noSuchRow r) ↔ r < 1 ∨ 7 < r)
    ∧ rowByte v 1 0 = .ok v.row1.b0 ∧ rowByte v 1 1 = .ok v.row1.b1 ∧ rowByte v 1 2 = .ok v.row1.b2
    ∧ rowByte v 1 3 = .ok v.row1.b3
    ∧ (rowByte v r k = .error (.noSuchByte r k) ↔ r ≠ 1 ∨ 3 < k)

/-- R101, R42: a row the burst lacks is presented with the count 0, and a burst passes the width gate exactly if it has
at least 8 rows and rows 1..7 are each exactly 28 bits. -/
def Obligations.AbsentRowsFailTheGate : Prop :=
  ∀ (b : Burst) (s : State),
    (∀ r, 1 ≤ r → r ≤ 7 → b.length ≤ r → rowBits (presentBurst b) r = .ok 0#16)
    ∧ (exec (.decode (presentBurst b)) s
        = .next { s with res := some .structuralMismatch, unspecified := false, wires := Wires.idle }
      ↔ ¬(8 ≤ b.length ∧ ∀ r, 1 ≤ r → r ≤ 7 → (b[r]?).map List.length = some 28))

/-- R102, R87: the content and width of row 0 and of rows from 8 on, and the content of rows 2..7, have no effect on any
result. -/
def Obligations.OtherRowsHaveNoEffect : Prop :=
  ∀ (a b : Burst) (s : State), a[1]? = b[1]? →
    (∀ r, 2 ≤ r → r ≤ 7 → (a[r]?).map List.length = (b[r]?).map List.length) →
    exec (.decode (presentBurst a)) s = exec (.decode (presentBurst b)) s

/-- R20, R27: only a DECODE and a RESET write RES: a step whose transaction is neither leaves it as it was. -/
def Obligations.OnlyDecodeAndResetWriteRes : Prop :=
  ∀ s t : State, step s = .next t →
    (∀ rest, s.pending ≠ .reset :: rest) → (∀ during rest, s.pending ≠ .request during :: rest) →
    t.res = s.res ∧ t.unspecified = s.unspecified

/-- R46: the block never writes its inputs: a step changes them only where the host presents new ones. -/
def Obligations.OnlyTheHostChangesTheInputs : Prop :=
  ∀ s t : State, step s = .next t → t.ports ≠ s.ports →
    ∃ r rest, s.pending = .present r :: rest ∧ t.ports = r

/-- Every step keeps the invariant: RES holds only what a DECODE can write (R22, R131: TEMP_DC in -2047..2048), and no
intermediate value outlives its DECODE (R31). -/
def Obligations.StepsKeepTheInvariant : Prop :=
  ∀ s t : State, s.Inv → step s = .next t → t.Inv

/-- The invariant holds after reset. -/
def Obligations.ResetMeetsTheInvariant : Prop := State.reset.Inv

/-- R160: instances share nothing. An instance of the list takes its own step, by `step`; a step of one leaves every
other as it was; and the steps of two instances can be taken in either order with the same outcome. What a step that
faults or is refused does to the list is the model's choice (log entry 17) and not claimed. -/
def Obligations.InstancesAreIndependent : Prop :=
  ∀ (ss : List State) (i : Nat),
    (∀ s t, ss[i]? = some s → step s = .next t → ∃ a, stepInstance i ss = .next a ∧ a[i]? = some t)
    ∧ (∀ a j, stepInstance i ss = .next a → j ≠ i → a[j]? = ss[j]?)
    ∧ (∀ a b j, i ≠ j → stepInstance i ss = .next a → stepInstance j a = .next b →
        ∃ c, stepInstance j ss = .next c ∧ stepInstance i c = .next b)

/-! The packed result. -/

/-- R65, R66: the bits of a packed SUCCESS result. -/
def Obligations.PackedSuccessHasItsLayout : Prop :=
  ∀ rec : Record,
    let w := successWord rec
    w.extractLsb' 29 1 = 1#1 ∧ w.extractLsb' 27 2 = 0#2 ∧ w.extractLsb' 19 8 = rec.id
      ∧ w.extractLsb' 17 2 = rec.channel ∧ w.extractLsb' 16 1 = rec.batteryOk
      ∧ w.extractLsb' 0 16 = rec.tempDc

/-- R65: whatever stands in the bits that hold no value, a packed legal RES is read back as itself. -/
def Obligations.PackedResultsReadBack : Prop :=
  ∀ (res : Option Result) (w : RspWord), resLegal res = true → fitsRsp w (packRsp res) = true →
    unpackRsp w = .ok res

/-- R66, R70 (c), R155: the three outcomes have the codes 0, 1 and 2, so they stay distinct; the reserved code 3 is the
code of none, and a packed word that has it is refused. -/
def Obligations.OutcomeCodesAreDistinctAndReservedRefused : Prop :=
  (∀ c : OutcomeCode, OutcomeCode.ofCode? c.code = some c ∧ c.code ≠ 3#2)
    ∧ Result.structuralMismatch.outcome.code = 1#2 ∧ Result.integrityViolation.outcome.code = 2#2
    ∧ (∀ rec, (Result.success rec).outcome.code = 0#2)
    ∧ ∀ w : RspWord, w.getLsbD 29 = true → w.extractLsb' 27 2 = 3#2 →
        unpackRsp w = .error (.badRsp .reservedOutcome)

/-! A read that faults during a DECODE. -/

/-- The model's choice (log entry 2): a read between request and response that faults, as R23 and R172 say it does, stops
the run with that fault, wherever it stands and whatever follows, before the DECODE writes RES. -/
def Obligations.FaultingReadDuringDecodeStopsTheRun : Prop :=
  ∀ (s : State) (before after : List WindowEvent) (rest : List HostEvent) (p : ReadPort) (f : Fault),
    harmlessWindow before s = true → portValue p s = .error f →
    step { s with pending := .request (before ++ .read p :: after) :: rest } = .fault f
end

