-- ==== Sys2Proof/Laws/Operands.lean ====
section
/-! SUPPORT. What each pure operand and flag function gives, once, as numbers and as slices of the frame word. -/

namespace Sys2Proof

@[simp] theorem cfg_frameBits : cfg.frameBits = 28 := rfl
@[simp] theorem cfg_gateFirstRow : cfg.gateFirstRow = 1 := rfl
@[simp] theorem cfg_gateLastRow : cfg.gateLastRow = 7 := rfl
@[simp] theorem cfg_frameRow : cfg.frameRow = 1 := rfl
@[simp] theorem cfg_frameBytes : cfg.frameBytes = 4 := rfl
@[simp] theorem cfg_tempThreshold : cfg.tempThreshold = 2048 := rfl
@[simp] theorem cfg_tempSubtrahend : cfg.tempSubtrahend = 4096 := rfl
@[simp] theorem cfg_tempScale : cfg.tempScale = 10 := rfl
@[simp] theorem cfg_checksumOffset : cfg.checksumOffset = 1 := rfl
@[simp] theorem cfg_checksumModulus : cfg.checksumModulus = 16 := rfl
@[simp] theorem cfg_mic : cfg.mic = "CHECKSUM" := rfl
@[simp] theorem cfg_fieldList :
    cfg.fieldList = ["model", "id", "channel", "battery_ok", "temperature_C", "mic"] := rfl
@[simp] theorem cfg_rowCountW : cfg.rowCountW = 16 := rfl

/-- The type `TempDc` has the width TEMP_DC_W (R5). -/
theorem cfg_tempDcW : cfg.tempDcW = 16 := rfl

theorem tempMin_eq : tempMin = -2047 := rfl
theorem tempMax_eq : tempMax = 2048 := rfl

theorem tempInRange_iff (t : Int) : tempInRange t = true ↔ -2047 ≤ t ∧ t ≤ 2048 := by
  rw [tempInRange, decide_eq_true_eq, tempMin_eq, tempMax_eq]

theorem tempInRange_false_iff (t : Int) : tempInRange t = false ↔ ¬(-2047 ≤ t ∧ t ≤ 2048) := by
  rw [← tempInRange_iff, Bool.not_eq_true]

/-! Nibbles and bytes as numbers. -/

theorem and_15_eq_mod (n : Nat) : n &&& 15 = n % 16 := Nat.and_two_pow_sub_one_eq_mod n 4

theorem highNibble_toNat (b : Byte) : (highNibble b).toNat = b.toNat / 16 := by
  have := b.isLt
  simp only [highNibble, BitVec.toNat_setWidth, BitVec.toNat_and, BitVec.toNat_ushiftRight,
    Nat.shiftRight_eq_div_pow]
  show (b.toNat / 2 ^ 4 &&& 15) % 2 ^ 4 = _
  rw [and_15_eq_mod]
  omega

theorem lowNibble_toNat (b : Byte) : (lowNibble b).toNat = b.toNat % 16 := by
  simp only [lowNibble, BitVec.toNat_setWidth, BitVec.toNat_and]
  show (b.toNat &&& 15) % 2 ^ 4 = _
  rw [and_15_eq_mod]
  omega

theorem highNibble_eq (b : Byte) : highNibble b = b.extractLsb' 4 4 := by
  apply BitVec.eq_of_toNat_eq
  rw [highNibble_toNat, BitVec.extractLsb'_toNat, Nat.shiftRight_eq_div_pow]
  have := b.isLt
  omega

theorem lowNibble_eq (b : Byte) : lowNibble b = b.extractLsb' 0 4 := by
  apply BitVec.eq_of_toNat_eq
  rw [lowNibble_toNat, BitVec.extractLsb'_toNat]
  simp

theorem word_toNat (f : FrameBytes) :
    f.word.toNat = f.b0.toNat * 16777216 + f.b1.toNat * 65536 + f.b2.toNat * 256 + f.b3.toNat := by
  have h0 := f.b0.isLt
  have h1 := f.b1.isLt
  have h2 := f.b2.isLt
  have h3 := f.b3.isLt
  simp only [FrameBytes.word, BitVec.toNat_append]
  rw [← Nat.shiftLeft_add_eq_or_of_lt h1, ← Nat.shiftLeft_add_eq_or_of_lt h2,
    ← Nat.shiftLeft_add_eq_or_of_lt h3]
  simp only [Nat.shiftLeft_eq]
  omega

theorem deviceId_toNat (b0 b1 : Byte) :
    (deviceId b0 b1).toNat = (b0.toNat % 16) * 16 + b1.toNat / 16 := by
  have h0 := lowNibble_toNat b0
  have h1 := highNibble_toNat b1
  have l1 := b1.isLt
  simp only [deviceId, BitVec.toNat_or, BitVec.toNat_shiftLeft, BitVec.toNat_setWidth, h0, h1,
    Nat.shiftLeft_eq]
  rw [show b0.toNat % 16 % 2 ^ 8 * 2 ^ 4 % 2 ^ 8 = (b0.toNat % 16) <<< 4 by
      rw [Nat.shiftLeft_eq]; omega,
    ← Nat.shiftLeft_add_eq_or_of_lt (by omega), Nat.shiftLeft_eq]
  omega

theorem tempRaw_toNat (b1 b2 : Byte) :
    (tempRaw b1 b2).toNat = (b1.toNat % 16) * 256 + b2.toNat := by
  have h1 := lowNibble_toNat b1
  have l2 := b2.isLt
  simp only [tempRaw, BitVec.toNat_or, BitVec.toNat_shiftLeft, BitVec.toNat_setWidth, h1,
    Nat.shiftLeft_eq]
  rw [show b1.toNat % 16 % 2 ^ 12 * 2 ^ 8 % 2 ^ 12 = (b1.toNat % 16) <<< 8 by
      rw [Nat.shiftLeft_eq]; omega,
    ← Nat.shiftLeft_add_eq_or_of_lt (by omega), Nat.shiftLeft_eq]
  omega

theorem channel_toNat (b3 : Byte) : (channel b3).toNat = b3.toNat / 64 := by
  have := b3.isLt
  simp only [channel, BitVec.toNat_setWidth, BitVec.toNat_and, BitVec.toNat_ushiftRight,
    Nat.shiftRight_eq_div_pow]
  show (b3.toNat / 2 ^ 6 &&& 3) % 2 ^ 2 = _
  rw [show b3.toNat / 2 ^ 6 &&& 3 = b3.toNat / 2 ^ 6 % 4 from
    Nat.and_two_pow_sub_one_eq_mod _ 2]
  omega

theorem battery_toNat (b3 : Byte) : (battery b3).toNat = b3.toNat / 32 % 2 := by
  simp only [battery, BitVec.toNat_setWidth, BitVec.toNat_and, BitVec.toNat_ushiftRight,
    Nat.shiftRight_eq_div_pow]
  show (b3.toNat / 2 ^ 5 &&& 1) % 2 ^ 1 = _
  rw [Nat.and_one_is_mod]
  omega

theorem firstTx_toNat (b3 : Byte) : (firstTx b3).toNat = b3.toNat / 16 % 2 := by
  simp only [firstTx, BitVec.toNat_setWidth, BitVec.toNat_and, BitVec.toNat_ushiftRight,
    Nat.shiftRight_eq_div_pow]
  show (b3.toNat / 2 ^ 4 &&& 1) % 2 ^ 1 = _
  rw [Nat.and_one_is_mod]
  omega

/-! The frame word and its bytes (R43). -/

theorem ofWord_word (f : FrameBytes) : FrameBytes.ofWord f.word = f := by
  have h := word_toNat f
  have h0 := f.b0.isLt
  have h1 := f.b1.isLt
  have h2 := f.b2.isLt
  have h3 := f.b3.isLt
  obtain ⟨b0, b1, b2, b3⟩ := f
  simp only [FrameBytes.ofWord, FrameBytes.mk.injEq]
  refine ⟨?_, ?_, ?_, ?_⟩ <;> apply BitVec.eq_of_toNat_eq <;>
    rw [BitVec.extractLsb'_toNat, Nat.shiftRight_eq_div_pow, h] <;> dsimp only at * <;> omega

theorem word_ofWord (w : FrameWord) : (FrameBytes.ofWord w).word = w := by
  apply BitVec.eq_of_toNat_eq
  rw [word_toNat]
  have := w.isLt
  simp only [FrameBytes.ofWord, BitVec.extractLsb'_toNat, Nat.shiftRight_eq_div_pow]
  omega

/-! Gates. -/

/-- PASS exactly when all seven counts are 28 (R100). -/
theorem widthGate_eq (n : RowCounts) :
    Machine.widthGate n =
      if n.n1 = 28#16 ∧ n.n2 = 28#16 ∧ n.n3 = 28#16 ∧ n.n4 = 28#16 ∧ n.n5 = 28#16 ∧ n.n6 = 28#16
        ∧ n.n7 = 28#16 then .pass else .fail := by
  have e : ∀ c : Count, c.toNat = 28 ↔ c = 28#16 := fun c => by
    constructor
    · intro h; exact BitVec.eq_of_toNat_eq h
    · rintro rfl; rfl
  have hl : Machine.gatedRows = [1, 2, 3, 4, 5, 6, 7] := by decide
  simp [Machine.widthGate, hl, Machine.rowHasFrameBits, RowCounts.row?, e]

theorem widthGate_pass_iff (n : RowCounts) :
    Machine.widthGate n = .pass ↔ n = ⟨28, 28, 28, 28, 28, 28, 28⟩ := by
  rw [widthGate_eq]
  obtain ⟨n1, n2, n3, n4, n5, n6, n7⟩ := n
  split <;> simp_all

/-- The computed checksum as a number (R141). -/
theorem checksumOf_toNat (s : Nat) : (checksumOf s).toNat = (s + 15) % 16 := by
  simp only [checksumOf, cfg_checksumOffset, cfg_checksumModulus, BitVec.toNat_ofInt]
  omega

theorem checksumGate_pass_iff (a b : Nibble) : Machine.checksumGate a b = .pass ↔ a = b := by
  unfold Machine.checksumGate
  split <;> simp_all

theorem checksumGate_fail_iff (a b : Nibble) : Machine.checksumGate a b = .fail ↔ a ≠ b := by
  unfold Machine.checksumGate
  split <;> simp_all

/-- SIGNED_RECON above the threshold (R130). -/
theorem signedTemp_above (traw : RawTemp) (h : 2048 < traw.toNat) :
    signedTemp traw = (traw.toNat : Int) - 4096 := by
  rw [signedTemp, cfg_tempThreshold, cfg_tempSubtrahend, if_pos h]
  rfl

/-- SIGNED_RECON up to the threshold, 2048 included (R130, R133). -/
theorem signedTemp_upTo (traw : RawTemp) (h : traw.toNat ≤ 2048) :
    signedTemp traw = (traw.toNat : Int) := by
  rw [signedTemp, cfg_tempThreshold, if_neg (by omega)]

/-- SIGNED_RECON's range (R130). -/
theorem signedTemp_inRange (traw : RawTemp) : tempInRange (signedTemp traw) = true := by
  rw [tempInRange_iff]
  have := traw.isLt
  rcases Nat.lt_or_ge 2048 traw.toNat with h | h
  · rw [signedTemp_above traw h]; omega
  · rw [signedTemp_upTo traw h]; omega

/-- sext_16 loses nothing of a TEMP in range (R131). -/
theorem toInt_ofInt_of_inRange (t : Int) (h : tempInRange t = true) :
    (BitVec.ofInt 16 t).toInt = t := by
  rw [tempInRange_iff] at h
  rw [BitVec.toInt_ofInt]
  simp only [Int.bmod]
  omega

end Sys2Proof
end

