-- ==== Sys2Proof/Laws/Decode.lean ====
section
/-! SUPPORT. The packed words as numbers, and reading them back. -/

namespace Sys2Proof

/-- REQ[143:32] as a number (R64). -/
theorem counts_toNat (n : RowCounts) :
    n.word.toNat = n.n1.toNat * 2 ^ 96 + n.n2.toNat * 2 ^ 80 + n.n3.toNat * 2 ^ 64 + n.n4.toNat * 2 ^ 48
      + n.n5.toNat * 2 ^ 32 + n.n6.toNat * 2 ^ 16 + n.n7.toNat := by
  have h2 := n.n2.isLt
  have h3 := n.n3.isLt
  have h4 := n.n4.isLt
  have h5 := n.n5.isLt
  have h6 := n.n6.isLt
  have h7 := n.n7.isLt
  simp only [RowCounts.word, BitVec.toNat_append]
  rw [← Nat.shiftLeft_add_eq_or_of_lt h2, ← Nat.shiftLeft_add_eq_or_of_lt h3,
    ← Nat.shiftLeft_add_eq_or_of_lt h4, ← Nat.shiftLeft_add_eq_or_of_lt h5,
    ← Nat.shiftLeft_add_eq_or_of_lt h6, ← Nat.shiftLeft_add_eq_or_of_lt h7]
  simp only [Nat.shiftLeft_eq]
  omega

/-- REQ as a number (R64). -/
theorem request_toNat (r : Request) :
    r.word.toNat = r.counts.word.toNat * 2 ^ 32 + r.row1.word.toNat := by
  have h2 := r.row1.word.isLt
  simp only [Request.word, BitVec.toNat_append]
  rw [← Nat.shiftLeft_add_eq_or_of_lt h2, Nat.shiftLeft_eq]

/-- A packed request is read back (R64). -/
theorem ofWord_request (r : Request) : Request.ofWord r.word = r := by
  have hr := request_toNat r
  have hc := counts_toNat r.counts
  have hw := r.row1.word.isLt
  have hf : r.word.extractLsb' 0 32 = r.row1.word := by
    apply BitVec.eq_of_toNat_eq
    rw [BitVec.extractLsb'_toNat, Nat.shiftRight_eq_div_pow, hr]
    omega
  have h1 := r.counts.n1.isLt
  have h2 := r.counts.n2.isLt
  have h3 := r.counts.n3.isLt
  have h4 := r.counts.n4.isLt
  have h5 := r.counts.n5.isLt
  have h6 := r.counts.n6.isLt
  have h7 := r.counts.n7.isLt
  simp only [Request.ofWord, hf, ofWord_word]
  obtain ⟨⟨n1, n2, n3, n4, n5, n6, n7⟩, f⟩ := r
  simp only [Request.mk.injEq, RowCounts.mk.injEq, and_true]
  refine ⟨?_, ?_, ?_, ?_, ?_, ?_, ?_⟩ <;> apply BitVec.eq_of_toNat_eq <;>
    rw [BitVec.extractLsb'_toNat, Nat.shiftRight_eq_div_pow, hr, hc] <;> dsimp only at * <;> omega

/-- The first `n` bytes of a request word are its upper part. -/
theorem bytesToNat_prefix (w : ReqWord) (n : Nat) (hn : n ≤ 18) :
    bytesToNat ((List.range n).map fun k => w.extractLsb' (8 * (17 - k)) 8)
      = w.toNat / 2 ^ (8 * (18 - n)) := by
  induction n with
  | zero =>
    have := w.isLt
    simp only [List.range_zero, List.map_nil, bytesToNat, List.foldl_nil]
    omega
  | succ n ih =>
    have ih := ih (by omega)
    simp only [bytesToNat] at ih
    simp only [bytesToNat, List.range_succ, List.map_append, List.foldl_append, ih, List.map_cons,
      List.map_nil, List.foldl_cons, List.foldl_nil, BitVec.extractLsb'_toNat,
      Nat.shiftRight_eq_div_pow]
    rw [show 8 * (18 - n) = 8 * (17 - n) + 8 by omega, show 18 - (n + 1) = 17 - n by omega,
      Nat.pow_add, ← Nat.div_div_eq_div_mul]
    omega

/-- A record word as a number (R65). -/
theorem rsp_toNat (v : BitVec 1) (o : BitVec 2) (id : Byte) (ch : Channel) (bat : Flag) (t : TempDc) :
    (v ++ o ++ id ++ ch ++ bat ++ t : RspWord).toNat
      = v.toNat * 2 ^ 29 + o.toNat * 2 ^ 27 + id.toNat * 2 ^ 19 + ch.toNat * 2 ^ 17
        + bat.toNat * 2 ^ 16 + t.toNat := by
  have h1 := o.isLt
  have h2 := id.isLt
  have h3 := ch.isLt
  have h4 := bat.isLt
  have h5 := t.isLt
  simp only [BitVec.toNat_append]
  rw [← Nat.shiftLeft_add_eq_or_of_lt h1, ← Nat.shiftLeft_add_eq_or_of_lt h2,
    ← Nat.shiftLeft_add_eq_or_of_lt h3, ← Nat.shiftLeft_add_eq_or_of_lt h4,
    ← Nat.shiftLeft_add_eq_or_of_lt h5]
  simp only [Nat.shiftLeft_eq]
  omega

/-- The fields of a record word are read back (R65). -/
theorem rsp_fields (v : BitVec 1) (o : BitVec 2) (id : Byte) (ch : Channel) (bat : Flag) (t : TempDc) :
    let w : RspWord := v ++ o ++ id ++ ch ++ bat ++ t
    w.extractLsb' 29 1 = v ∧ w.extractLsb' 27 2 = o ∧ w.extractLsb' 19 8 = id
      ∧ w.extractLsb' 17 2 = ch ∧ w.extractLsb' 16 1 = bat ∧ w.extractLsb' 0 16 = t := by
  intro w
  have h : w.toNat = _ := rsp_toNat v o id ch bat t
  have h0 := v.isLt
  have h1 := o.isLt
  have h2 := id.isLt
  have h3 := ch.isLt
  have h4 := bat.isLt
  have h5 := t.isLt
  refine ⟨?_, ?_, ?_, ?_, ?_, ?_⟩ <;> apply BitVec.eq_of_toNat_eq <;>
    rw [BitVec.extractLsb'_toNat, Nat.shiftRight_eq_div_pow, h] <;> omega

/-- A bit is a one-bit slice. -/
theorem getLsbD_of_extract {n k : Nat} (w : BitVec n) (h : w.extractLsb' k 1 = 1#1) :
    w.getLsbD k = true := by
  have := congrArg (fun v => BitVec.getLsbD v 0) h
  simpa [BitVec.getLsbD_extractLsb'] using this

/-- A SUCCESS word with a temperature in range holds RECORD_ASSEMBLE's operands (R65, R85). -/
theorem decodeRecord_of_fields {w : RspWord} {id : Byte} {ch : Channel} {bat : Flag} {t : TempDc}
    (h29 : w.extractLsb' 29 1 = 1#1) (h27 : w.extractLsb' 27 2 = 0#2)
    (h19 : w.extractLsb' 19 8 = id) (h17 : w.extractLsb' 17 2 = ch)
    (h16 : w.extractLsb' 16 1 = bat) (h0 : w.extractLsb' 0 16 = t)
    (ht : tempInRange t.toInt = true) :
    decodeRecord w = .ok (.recordAssemble id ch bat t.toInt) := by
  have hv := getLsbD_of_extract w h29
  unfold decodeRecord
  rw [hv, h27, h19, h17, h16, h0, ht]
  rfl

/-- The slices a SIGNED_RECON word is read from (R60). -/
theorem traw_slice (traw : RawTemp) :
    (0#12 ++ traw ++ 0#8 : FrameWord).extractLsb' 8 12 = traw := by
  have := traw.isLt
  apply BitVec.eq_of_toNat_eq
  simp only [BitVec.extractLsb'_toNat, BitVec.toNat_append, Nat.shiftRight_eq_div_pow,
    BitVec.toNat_ofNat, Nat.zero_mod, Nat.shiftLeft_eq, Nat.zero_mul, Nat.zero_or, Nat.or_zero]
  omega

/-- The bytes and the C_RX slice of the word CHECKSUM_COMPARE is encoded in (R60, R145). -/
theorem compare_word (cRx cCalc : Nibble) :
    let w : FrameWord := cRx ++ (cCalc + 1#4) ++ 0#24
    w.extractLsb' 28 4 = cRx ∧
      computedChecksum (FrameBytes.ofWord w).b0 (FrameBytes.ofWord w).b1 (FrameBytes.ofWord w).b2
        (FrameBytes.ofWord w).b3 = cCalc := by
  intro w
  have h1 := cRx.isLt
  have h2 := (cCalc + 1#4).isLt
  have h3 := cCalc.isLt
  have h : w.toNat = cRx.toNat * 2 ^ 28 + (cCalc + 1#4).toNat * 2 ^ 24 := by
    simp only [w, BitVec.toNat_append]
    rw [← Nat.shiftLeft_add_eq_or_of_lt h2]
    simp only [BitVec.toNat_ofNat, Nat.zero_mod, Nat.or_zero, Nat.shiftLeft_eq]
    omega
  constructor
  · apply BitVec.eq_of_toNat_eq
    rw [BitVec.extractLsb'_toNat, Nat.shiftRight_eq_div_pow, h]
    omega
  · apply BitVec.eq_of_toNat_eq
    simp only [computedChecksum, checksumOf_toNat, nibbleSum, lowNibble_toNat, highNibble_toNat,
      FrameBytes.ofWord, BitVec.extractLsb'_toNat, Nat.shiftRight_eq_div_pow, h]
    rw [BitVec.toNat_add] at *
    simp only [BitVec.toNat_ofNat]
    omega

end Sys2Proof
end

