-- ==== Sys2Proof/Laws/State.lean ====
section
/-! SUPPORT. One lemma per field per update of the state, so that no later proof unfolds a record update. -/

namespace Sys2Proof.Machine

@[simp] theorem drive_res (s : State) (w : Wires) : (s.drive w).res = s.res := rfl
@[simp] theorem drive_unspecified (s : State) (w : Wires) : (s.drive w).unspecified = s.unspecified := rfl
@[simp] theorem drive_ports (s : State) (w : Wires) : (s.drive w).ports = s.ports := rfl
@[simp] theorem drive_wires (s : State) (w : Wires) : (s.drive w).wires = w := rfl
@[simp] theorem drive_pending (s : State) (w : Wires) : (s.drive w).pending = s.pending := rfl
@[simp] theorem drive_replies (s : State) (w : Wires) : (s.drive w).replies = s.replies := rfl

@[simp] theorem writeRes_res (s : State) (r : Result) : (s.writeRes r).res = some r := rfl
@[simp] theorem writeRes_unspecified (s : State) (r : Result) : (s.writeRes r).unspecified = false := rfl
@[simp] theorem writeRes_ports (s : State) (r : Result) : (s.writeRes r).ports = s.ports := rfl
@[simp] theorem writeRes_wires (s : State) (r : Result) : (s.writeRes r).wires = Wires.idle := rfl
@[simp] theorem writeRes_pending (s : State) (r : Result) : (s.writeRes r).pending = s.pending := rfl
@[simp] theorem writeRes_replies (s : State) (r : Result) : (s.writeRes r).replies = s.replies := rfl

@[simp] theorem applyReset_res (s : State) : s.applyReset.res = none := rfl
@[simp] theorem applyReset_unspecified (s : State) : s.applyReset.unspecified = false := rfl
@[simp] theorem applyReset_ports (s : State) : s.applyReset.ports = s.ports := rfl
@[simp] theorem applyReset_wires (s : State) : s.applyReset.wires = Wires.idle := rfl
@[simp] theorem applyReset_pending (s : State) : s.applyReset.pending = s.pending := rfl
@[simp] theorem applyReset_replies (s : State) : s.applyReset.replies = s.replies := rfl

@[simp] theorem presentInputs_res (s : State) (r : Request) : (s.presentInputs r).res = s.res := rfl
@[simp] theorem presentInputs_unspecified (s : State) (r : Request) :
    (s.presentInputs r).unspecified = s.unspecified := rfl
@[simp] theorem presentInputs_ports (s : State) (r : Request) : (s.presentInputs r).ports = r := rfl
@[simp] theorem presentInputs_wires (s : State) (r : Request) : (s.presentInputs r).wires = s.wires := rfl
@[simp] theorem presentInputs_pending (s : State) (r : Request) :
    (s.presentInputs r).pending = s.pending := rfl
@[simp] theorem presentInputs_replies (s : State) (r : Request) :
    (s.presentInputs r).replies = s.replies := rfl

@[simp] theorem request_res (s : State) (w : ReqWord) : (s.request w).res = s.res := rfl
@[simp] theorem request_unspecified (s : State) (w : ReqWord) :
    (s.request w).unspecified = s.unspecified := rfl
@[simp] theorem request_ports (s : State) (w : ReqWord) : (s.request w).ports = Request.ofWord w := rfl
@[simp] theorem request_wires (s : State) (w : ReqWord) : (s.request w).wires = s.wires := rfl
@[simp] theorem request_pending (s : State) (w : ReqWord) :
    (s.request w).pending = .request [] :: s.pending := rfl
@[simp] theorem request_replies (s : State) (w : ReqWord) : (s.request w).replies = s.replies := rfl

@[simp] theorem reset_res : State.reset.res = none := rfl
@[simp] theorem reset_unspecified : State.reset.unspecified = false := rfl
@[simp] theorem reset_ports : State.reset.ports = Request.empty := rfl
@[simp] theorem reset_wires : State.reset.wires = Wires.idle := rfl
@[simp] theorem reset_pending : State.reset.pending = [] := rfl
@[simp] theorem reset_replies : State.reset.replies = [] := rfl

end Sys2Proof.Machine
end

