-- ==== Sys2Proof/Laws/Ops.lean ====
section
/-! SUPPORT. For each shared operation one lemma that says everything it can do. -/

namespace Sys2Proof.Machine

/-- The snapshot is the whole view: no read of it is refused (R41, R45). -/
theorem snapshot_eq (v : Request) : snapshot v = .ok v := rfl

/-- The request word is the view packed (R45, R64). -/
theorem fetch_eq (s : State) : fetch s = .ok s.ports.word := rfl

theorem raise_eq (f : Failure) (s : State) : raise f s = .next (s.writeRes f.result) := rfl

/-- A read that answers records the reply and changes nothing else. -/
theorem readPort_next {p : ReadPort} {s t : State} (h : readPort p s = .next t) :
    ∃ v, portValue p s = .ok v ∧ t = { s with replies := v :: s.replies } := by
  unfold readPort at h
  split at h
  · rename_i v hv
    exact ⟨v, hv, by simpa using h.symm⟩
  · cases h

/-- A read answers what its port holds. -/
theorem readPort_of_ok {p : ReadPort} {s : State} {v : Reply} (h : portValue p s = .ok v) :
    readPort p s = .next { s with replies := v :: s.replies } := by
  rw [readPort, h]

/-- A read of a port that holds nothing faults. -/
theorem readPort_of_error {p : ReadPort} {s : State} {f : Fault} (h : portValue p s = .error f) :
    readPort p s = .fault f := by
  rw [readPort, h]

/-- What a port answers depends on RES alone. -/
theorem portValue_congr {s t : State} (p : ReadPort) (hr : s.res = t.res)
    (hu : s.unspecified = t.unspecified) : portValue p s = portValue p t := by
  cases p <;> simp [portValue, hr, hu]

/-- A window that ends has only added replies. -/
theorem runWindow_next {es : List WindowEvent} {s t : State} (h : runWindow es s = .next t) :
    ∃ vs, t = { s with replies := vs ++ s.replies } := by
  induction es generalizing s with
  | nil =>
    refine ⟨[], ?_⟩
    simp only [runWindow, Host.Outcome.next.injEq] at h
    simp [h]
  | cons e es ih =>
    cases e with
    | read p =>
      simp only [runWindow] at h
      split at h
      · rename_i u hu
        obtain ⟨v, -, rfl⟩ := readPort_next hu
        obtain ⟨vs, rfl⟩ := ih h
        exact ⟨vs ++ [v], by simp⟩
      · cases h
      · cases h
    | present r =>
      simp only [runWindow] at h
      split at h
      · exact ih h
      · cases h
    | reset => cases h

/-- A window that begins with one that ends goes on from where that one ended. -/
theorem runWindow_append {before : List WindowEvent} {s t : State} (after : List WindowEvent)
    (h : runWindow before s = .next t) : runWindow (before ++ after) s = runWindow after t := by
  induction before generalizing s with
  | nil =>
    simp only [runWindow, Host.Outcome.next.injEq] at h
    rw [h, List.nil_append]
  | cons e es ih =>
    cases e with
    | read p =>
      simp only [List.cons_append, runWindow] at h ⊢
      split at h
      · exact ih h
      · cases h
      · cases h
    | present r =>
      simp only [List.cons_append, runWindow] at h ⊢
      split at h
      · rename_i hr
        rw [if_pos hr]
        exact ih h
      · cases h
    | reset => cases h

/-- Where the steps of one instance end: with the list as it was (no such instance), or with its own next state in its
place. -/
theorem stepInstance_next_cases {k : Nat} {ss a : List State} (h : stepInstance k ss = .next a) :
    (ss[k]? = none ∧ a = ss) ∨ (∃ s t, ss[k]? = some s ∧ step s = .next t ∧ a = ss.set k t) := by
  unfold stepInstance at h
  split at h
  · rename_i hk
    exact .inl ⟨hk, by simpa using h.symm⟩
  · rename_i s hk
    split at h
    · rename_i t ht
      exact .inr ⟨s, t, hk, ht, by simpa using h.symm⟩
    · cases h
    · cases h

/-- The result DECODE writes (R80), by the gates in their order (R82). -/
theorem execDecode_cases (r : Request) (s : State) :
    (widthGate r.counts = .fail ∧ execDecode r s = .next (s.writeRes .structuralMismatch)) ∨
    (widthGate r.counts = .pass
      ∧ checksumRx r.row1.b0 ≠ computedChecksum r.row1.b0 r.row1.b1 r.row1.b2 r.row1.b3
      ∧ execDecode r s = .next (s.writeRes .integrityViolation)) ∨
    (widthGate r.counts = .pass
      ∧ checksumRx r.row1.b0 = computedChecksum r.row1.b0 r.row1.b1 r.row1.b2 r.row1.b3
      ∧ execDecode r s = .next (s.writeRes (.success
          (recordAssemble (deviceId r.row1.b0 r.row1.b1) (channel r.row1.b3) (battery r.row1.b3)
            (signedTemp (tempRaw r.row1.b1 r.row1.b2)))))) := by
  unfold execDecode
  cases hw : widthGate r.counts with
  | fail => exact .inl ⟨rfl, by simp [raise, Failure.result]⟩
  | pass =>
    by_cases hc : checksumRx r.row1.b0 = computedChecksum r.row1.b0 r.row1.b1 r.row1.b2 r.row1.b3
    · refine .inr (.inr ⟨rfl, hc, ?_⟩)
      simp [(checksumGate_pass_iff _ _).2 hc]
    · refine .inr (.inl ⟨rfl, hc, ?_⟩)
      simp [(checksumGate_fail_iff _ _).2 hc, raise, Failure.result]

/-- RECORD_ASSEMBLE's record has a legal temperature when its operand has (R85, R131). -/
theorem recordAssemble_legal (id : Byte) (ch : Channel) (bat : Flag) (t : Int)
    (h : tempInRange t = true) : resLegal (some (.success (recordAssemble id ch bat t))) = true := by
  show tempInRange (BitVec.ofInt 16 t).toInt = true
  rw [toInt_ofInt_of_inRange t h, h]

/-- Whatever operation runs: DECODE writes RES with a legal result, a stage drives the wires and nothing else. -/
theorem exec_next_cases {i : Instr} {s t : State} (h : exec i s = .next t) :
    (∃ r res, i = .decode r ∧ t = s.writeRes res ∧ resLegal (some res) = true) ∨
    (∃ w, t = s.drive w) := by
  cases i with
  | decode r =>
    left
    simp only [exec] at h
    obtain ⟨-, e⟩ | ⟨-, -, e⟩ | ⟨-, -, e⟩ := execDecode_cases r s <;>
      rw [e, Host.Outcome.next.injEq] at h
    · exact ⟨r, _, rfl, h.symm, rfl⟩
    · exact ⟨r, _, rfl, h.symm, rfl⟩
    · exact ⟨r, _, rfl, h.symm, recordAssemble_legal _ _ _ _ (signedTemp_inRange _)⟩
  | recordAssemble id ch bat temp =>
    right
    simp only [exec, execRecordAssemble] at h
    split at h
    · exact ⟨_, by simpa using h.symm⟩
    · cases h
  | _ =>
    right
    simp only [exec, execWidthGate, execHighNibble, execLowNibble, execExtractChecksumRx,
      execExtractId, execExtractTempRaw, execExtractChannel, execExtractBattery,
      execExtractFirstTx, execSignedRecon, execChecksumCompute, execChecksumCompare,
      Host.Outcome.next.injEq] at h
    exact ⟨_, h.symm⟩

/-- Everything one host transaction that ends in a next state can do. -/
theorem perform_next_cases {e : HostEvent} {s t : State} (h : perform e s = .next t) :
    (∃ r, e = .present r ∧ t = s.presentInputs r) ∨
    (e = .reset ∧ t = s.applyReset) ∨
    (∃ during vs res, e = .request during ∧ resLegal (some res) = true
      ∧ t = { s with replies := vs ++ s.replies }.writeRes res) ∨
    (∃ p v, e = .read p ∧ portValue p s = .ok v ∧ t = { s with replies := v :: s.replies }) := by
  cases e with
  | present r => exact .inl ⟨r, rfl, by simpa [perform] using h.symm⟩
  | reset => exact .inr (.inl ⟨rfl, by simpa [perform] using h.symm⟩)
  | request during =>
    refine .inr (.inr (.inl ?_))
    simp only [perform, transact, fetch_eq] at h
    split at h
    · rename_i u hu
      obtain ⟨vs, rfl⟩ := runWindow_next hu
      obtain ⟨r, res, -, rfl, hl⟩ | ⟨w, rfl⟩ := exec_next_cases h
      · exact ⟨during, vs, res, rfl, hl, rfl⟩
      · obtain ⟨-, e⟩ | ⟨-, -, e⟩ | ⟨-, -, e⟩ :=
          execDecode_cases (Request.ofWord s.ports.word) { s with replies := vs ++ s.replies }
        all_goals
          simp only [decodeRequest, exec] at h
          rw [e, Host.Outcome.next.injEq] at h
          rw [← h]
        · exact ⟨during, vs, _, rfl, rfl, rfl⟩
        · exact ⟨during, vs, _, rfl, rfl, rfl⟩
        · exact ⟨during, vs, _, rfl, recordAssemble_legal _ _ _ _ (signedTemp_inRange _), rfl⟩
    · cases h
    · cases h
  | read p =>
    obtain ⟨v, hv, rfl⟩ := readPort_next h
    exact .inr (.inr (.inr ⟨p, v, rfl, hv, rfl⟩))

/-- A step performs the first pending transaction. -/
theorem step_of_pending {s : State} {e : HostEvent} {rest : List HostEvent} (h : s.pending = e :: rest) :
    step s = perform e { s with pending := rest } := by
  rw [step, h]

/-- Everything one step that ends in a next state can do: nothing, or one host transaction. -/
theorem step_next_cases {s t : State} (h : step s = .next t) :
    (s.pending = [] ∧ t = s) ∨
    (∃ e rest, s.pending = e :: rest ∧ perform e { s with pending := rest } = .next t) := by
  cases hp : s.pending with
  | nil =>
    rw [step, hp, Host.Outcome.next.injEq] at h
    exact .inl ⟨rfl, h.symm⟩
  | cons e rest => exact .inr ⟨e, rest, rfl, (step_of_pending hp).symm.trans h⟩

end Sys2Proof.Machine
end

