-- ==== Sys2Proof/Laws/PerInstr.lean ====
section
/-! SUPPORT. One lemma per constructor of `Instr` for each family named in LAWS.json. -/

namespace Sys2Proof.Laws

/-- The family RoundTrip: an instruction's operand word, read for its row, gives the instruction back. -/
def RoundTrip.Statement (i : Instr) : Prop := i.wf = true → decodeAs i.row (encode i) = .ok i

theorem RoundTrip.decode (r : Request) :
    RoundTrip.Statement (.decode r) := by
  intro hw
  show Except.ok (decodeRequest r.word) = _
  rw [decodeRequest, ofWord_request]

theorem RoundTrip.widthGate (n : RowCounts) :
    RoundTrip.Statement (.widthGate n) := by
  intro hw
  simp only [Instr.row, encode, decodeAs, ofWord_request]

theorem RoundTrip.highNibble (b : Byte) :
    RoundTrip.Statement (.highNibble b) := by
  intro hw
  rfl

theorem RoundTrip.lowNibble (b : Byte) :
    RoundTrip.Statement (.lowNibble b) := by
  intro hw
  rfl

theorem RoundTrip.extractChecksumRx (b0 : Byte) :
    RoundTrip.Statement (.extractChecksumRx b0) := by
  intro hw
  simp only [Instr.row, encode, decodeAs, decodeFrame, ofWord_word]

theorem RoundTrip.extractId (b0 : Byte) (b1 : Byte) :
    RoundTrip.Statement (.extractId b0 b1) := by
  intro hw
  simp only [Instr.row, encode, decodeAs, decodeFrame, ofWord_word]

theorem RoundTrip.extractTempRaw (b1 : Byte) (b2 : Byte) :
    RoundTrip.Statement (.extractTempRaw b1 b2) := by
  intro hw
  simp only [Instr.row, encode, decodeAs, decodeFrame, ofWord_word]

theorem RoundTrip.extractChannel (b3 : Byte) :
    RoundTrip.Statement (.extractChannel b3) := by
  intro hw
  simp only [Instr.row, encode, decodeAs, decodeFrame, ofWord_word]

theorem RoundTrip.extractBattery (b3 : Byte) :
    RoundTrip.Statement (.extractBattery b3) := by
  intro hw
  simp only [Instr.row, encode, decodeAs, decodeFrame, ofWord_word]

theorem RoundTrip.extractFirstTx (b3 : Byte) :
    RoundTrip.Statement (.extractFirstTx b3) := by
  intro hw
  simp only [Instr.row, encode, decodeAs, decodeFrame, ofWord_word]

theorem RoundTrip.signedRecon (traw : RawTemp) :
    RoundTrip.Statement (.signedRecon traw) := by
  intro hw
  simp only [Instr.row, encode, decodeAs, decodeFrame, traw_slice]

theorem RoundTrip.checksumCompute (b0 : Byte) (b1 : Byte) (b2 : Byte) (b3 : Byte) :
    RoundTrip.Statement (.checksumCompute b0 b1 b2 b3) := by
  intro hw
  simp only [Instr.row, encode, decodeAs, decodeFrame, ofWord_word]

theorem RoundTrip.checksumCompare (cRx : Nibble) (cCalc : Nibble) :
    RoundTrip.Statement (.checksumCompare cRx cCalc) := by
  intro hw
  obtain ⟨h1, h2⟩ := compare_word cRx cCalc
  simp only [Instr.row, encode, decodeAs, decodeFrame, h1, h2]

theorem RoundTrip.recordAssemble (id : Byte) (ch : Channel) (bat : Flag) (temp : Int) :
    RoundTrip.Statement (.recordAssemble id ch bat temp) := by
  intro hw
  obtain ⟨h29, h27, h19, h17, h16, h0⟩ := rsp_fields 1#1 0#2 id ch bat (BitVec.ofInt 16 temp)
  have ht : (BitVec.ofInt 16 temp).toInt = temp := toInt_ofInt_of_inRange temp hw
  have hr : tempInRange (BitVec.ofInt 16 temp).toInt = true := by rw [ht]; exact hw
  have h := decodeRecord_of_fields h29 h27 h19 h17 h16 h0 hr
  rw [ht] at h
  exact h

end Sys2Proof.Laws
end

