-- ==== Sys2Proof/Tests/Slice0.lean ====
section
/-! SUPPORT. Tests of single operations and steps. Every expected value is the spec's: the rules' own examples and the
tables of spec/95_test_vectors.md, cited by section. Then, for every statement with hypotheses, a witness that meets them. -/

namespace Sys2Proof.Tests

open Sys2Proof Sys2Proof.Machine

/-- The next state of an outcome, if it has one. -/
def next? : Host.Outcome State Fault Refusal → Option State
  | .next s => some s
  | .fault _ => none
  | .refused _ => none

/-- The fault of an outcome, if it is one. -/
def fault? : Host.Outcome State Fault Refusal → Option Fault
  | .next _ => none
  | .fault f => some f
  | .refused _ => none

/-- The refusal of an outcome, if it is one. -/
def refusal? : Host.Outcome State Fault Refusal → Option Refusal
  | .next _ => none
  | .fault _ => none
  | .refused r => some r

/-- The wires after a stage operation run at reset. -/
def wiresAfter (i : Instr) : Option Wires := (next? (exec i State.reset)).map State.wires

/-- RES after a DECODE run at reset. -/
def resAfter (r : Request) : Option (Option Result) := (next? (exec (.decode r) State.reset)).map State.res

/-- A state in which the host's transactions are these. -/
def hosted (es : List HostEvent) : State := { State.reset with pending := es }

/-- A state whose RES holds a record, with these transactions to come. -/
def holding (r : Result) (es : List HostEvent) : State :=
  { State.reset with res := some r, pending := es }

/-- The record of V-DEC-2. -/
def record2 : Record := ⟨52, 2, 0, 0x0567⟩

/-! WellFormed: the ill-formed term of each check is refused, the bounds are not. -/

theorem test_wf_refuses_temp_above : (Instr.recordAssemble 52 2 0 2049).wf = false := by decide
theorem test_wf_refuses_temp_below : (Instr.recordAssemble 52 2 0 (-2048)).wf = false := by decide
theorem test_wf_admits_bounds :
    (Instr.recordAssemble 52 2 0 2048).wf = true ∧ (Instr.recordAssemble 52 2 0 (-2047)).wf = true := by
  decide

/-! Decode: one word written out from the spec's encoding for every constructor. -/

/-- R64's example (P1): REQ of 28x7 and row1 = 03456781. -/
theorem test_decode_request :
    decodeAs .decode (.req 0x001C001C001C001C001C001C001C03456781#144)
      = .ok (.decode ⟨⟨28, 28, 28, 28, 28, 28, 28⟩, ⟨0x03, 0x45, 0x67, 0x81⟩⟩) := by decide

/-- Seven distinct counts, so that no two places can be swapped (R64). -/
theorem test_decode_width_gate :
    decodeAs .widthGate (.req 0x000100020003000400050006000700000000#144)
      = .ok (.widthGate ⟨1, 2, 3, 4, 5, 6, 7⟩) := by decide

theorem test_decode_nibbles :
    decodeAs .highNibble (.byte 0xC3#8) = .ok (.highNibble 0xC3)
      ∧ decodeAs .lowNibble (.byte 0xC3#8) = .ok (.lowNibble 0xC3) := by decide

/-- R60's pattern string over W = C3456781 (S6). -/
theorem test_decode_frame_stages :
    decodeAs .extractChecksumRx (.frame 0xC3456781#32) = .ok (.extractChecksumRx 0xC3)
      ∧ decodeAs .extractId (.frame 0xC3456781#32) = .ok (.extractId 0xC3 0x45)
      ∧ decodeAs .extractTempRaw (.frame 0xC3456781#32) = .ok (.extractTempRaw 0x45 0x67)
      ∧ decodeAs .extractChannel (.frame 0xC3456781#32) = .ok (.extractChannel 0x81)
      ∧ decodeAs .extractBattery (.frame 0xC3456781#32) = .ok (.extractBattery 0x81)
      ∧ decodeAs .extractFirstTx (.frame 0xC3456781#32) = .ok (.extractFirstTx 0x81)
      ∧ decodeAs .signedRecon (.frame 0xC3456781#32) = .ok (.signedRecon 1383)
      ∧ decodeAs .checksumCompute (.frame 0xC3456781#32) = .ok (.checksumCompute 0xC3 0x45 0x67 0x81)
      ∧ decodeAs .checksumCompare (.frame 0xC3456781#32) = .ok (.checksumCompare 12 0) := by decide

/-- RSP = 2093F801 is V-DEC-10. -/
theorem test_decode_record :
    decodeAs .recordAssemble (.rsp 0x2093F801#30) = .ok (.recordAssemble 18 1 1 (-2047)) := by decide

/-- V-DEC-1's outcome (IntegrityViolation), VALID = 0, OUTCOME 3, and TEMP_DC = -2048 hold no record. -/
theorem test_decode_record_refusals :
    decodeAs .recordAssemble (.rsp 0x30000000#30) = .error .noRecord
      ∧ decodeAs .recordAssemble (.rsp 0x01A40567#30) = .error .noRecord
      ∧ decodeAs .recordAssemble (.rsp 0x39A40567#30) = .error .reservedOutcome
      ∧ decodeAs .recordAssemble (.rsp 0x2000F800#30) = .error .tempOutOfRange := by decide

theorem test_decode_wrong_format :
    decodeAs .highNibble (.frame 0#32) = .error (.wrongFormat .highNibble)
      ∧ decodeAs .decode (.rsp 0#30) = .error (.wrongFormat .decode) := by decide

/-- R64: a request is 144 bits, so 18 bytes; P3's second REQ as bytes. -/
theorem test_decode_bytes :
    decodeBytes [0x00, 0x1C, 0x00, 0x1C, 0x00, 0x1C, 0x00, 0x1C, 0x00, 0x1C, 0x00, 0x1C, 0x00, 0x1C,
        0x11, 0x28, 0x01, 0x60]
      = .ok (.decode ⟨⟨28, 28, 28, 28, 28, 28, 28⟩, ⟨0x11, 0x28, 0x01, 0x60⟩⟩)
      ∧ decodeBytes [0x00, 0x1C] = .error (.notARequest 2) := by decide

theorem test_table_word :
    decodeTableWord 32 0 = some (.decode Request.empty)
      ∧ decodeTableWord 144 0x001C001C001C001C001C001C001C03456781
        = some (.decode ⟨⟨28, 28, 28, 28, 28, 28, 28⟩, ⟨0x03, 0x45, 0x67, 0x81⟩⟩) := by decide

/-- The next step after `withFetchWord` runs that DECODE (V-DEC-2). -/
theorem test_fetch_word_runs :
    (next? (step (State.reset.withFetchWord 144 0x001C001C001C001C001C001C001C03456781))).map State.res
      = some (some (.success record2)) := by decide

/-! The stage operations. -/

/-- 95_test_vectors.md 2.1, V-WG-1. -/
theorem test_width_gate_passes :
    wiresAfter (.widthGate ⟨28, 28, 28, 28, 28, 28, 28⟩) = some { widthGate := some .pass } := by decide

/-- V-WG-2 to V-WG-8. -/
theorem test_width_gate_fails :
    ([⟨27, 28, 28, 28, 28, 28, 28⟩, ⟨28, 28, 28, 27, 28, 28, 28⟩, ⟨28, 28, 28, 28, 28, 28, 29⟩,
      ⟨0, 0, 0, 0, 0, 0, 0⟩, ⟨28, 28, 28, 28, 28, 0, 0⟩, ⟨65535, 28, 28, 28, 28, 28, 28⟩,
      ⟨56, 28, 28, 28, 28, 28, 28⟩] : List RowCounts).all
        (fun n => wiresAfter (.widthGate n) == some { widthGate := some .fail }) = true := by decide

/-- Section 2.2. -/
theorem test_high_nibble :
    ([(0x00, 0), (0xFF, 15), (0xC3, 12), (0x45, 4), (0x81, 8), (0x0F, 0), (0xF0, 15)]
      : List (Byte × Nibble)).all
        (fun x => wiresAfter (.highNibble x.1) == some { nibbleHigh := some x.2 }) = true := by decide

/-- Section 2.2. -/
theorem test_low_nibble :
    ([(0x00, 0), (0xFF, 15), (0xC3, 3), (0x45, 5), (0x81, 1), (0x0F, 15), (0xF0, 0)]
      : List (Byte × Nibble)).all
        (fun x => wiresAfter (.lowNibble x.1) == some { nibbleLow := some x.2 }) = true := by decide

/-- Section 2.3, first row (S6). -/
theorem test_extract_checksum_rx :
    wiresAfter (.extractChecksumRx 0xC3) = some { cRx := some 12 } := by decide

/-- Section 2.3: W = C3456781, 0FF00000 and 580001D0. -/
theorem test_extract_id :
    wiresAfter (.extractId 0xC3 0x45) = some { id := some 52 }
      ∧ wiresAfter (.extractId 0x0F 0xF0) = some { id := some 255 }
      ∧ wiresAfter (.extractId 0x58 0x00) = some { id := some 128 } := by decide

/-- Section 2.3: W = C3456781, 000FFF00 and 580001D0. -/
theorem test_extract_temp_raw :
    wiresAfter (.extractTempRaw 0x45 0x67) = some { traw := some 1383 }
      ∧ wiresAfter (.extractTempRaw 0x0F 0xFF) = some { traw := some 4095 }
      ∧ wiresAfter (.extractTempRaw 0x00 0x01) = some { traw := some 1 } := by decide

/-- Section 2.3: b3 = 81, C0 and 20. -/
theorem test_extract_channel :
    wiresAfter (.extractChannel 0x81) = some { ch := some 2 }
      ∧ wiresAfter (.extractChannel 0xC0) = some { ch := some 3 }
      ∧ wiresAfter (.extractChannel 0x20) = some { ch := some 0 } := by decide

/-- R116's examples: b3 = 81 is LOW, A0 is OK. -/
theorem test_extract_battery :
    wiresAfter (.extractBattery 0x81) = some { bat := some 0 }
      ∧ wiresAfter (.extractBattery 0xA0) = some { bat := some 1 } := by decide

/-- R117's examples: b3 = 81 and 91. -/
theorem test_extract_first_tx :
    wiresAfter (.extractFirstTx 0x81) = some { ftx := some 0 }
      ∧ wiresAfter (.extractFirstTx 0x91) = some { ftx := some 1 } := by decide

/-- Section 2.4. -/
theorem test_signed_recon :
    ([(0, 0), (1, 1), (1383, 1383), (2047, 2047), (2048, 2048), (2049, -2047), (3000, -1096),
      (3796, -300), (4094, -2), (4095, -1)] : List (RawTemp × Int)).all
        (fun x => wiresAfter (.signedRecon x.1) == some { temp := some x.2 }) = true := by decide

/-- Section 2.5: bytes of W, S, C_CALC. -/
theorem test_checksum_compute :
    ([(0xC3456781, 33, 0), (0x00000000, 0, 15), (0x0FFFFFF0, 90, 9), (0x01000000, 1, 0),
      (0x0F100000, 16, 15), (0x0345678F, 33, 0), (0x03456791, 34, 1)]
      : List (FrameWord × Nat × Nibble)).all
        (fun x =>
          let f := FrameBytes.ofWord x.1
          wiresAfter (.checksumCompute f.b0 f.b1 f.b2 f.b3)
            == some { sum := some x.2.1, cCalc := some x.2.2 }) = true := by decide

/-- Section 2.6. -/
theorem test_checksum_compare :
    ([(12, 0, .fail), (0, 0, .pass), (15, 15, .pass), (0, 15, .fail)]
      : List (Nibble × Nibble × Verdict)).all
        (fun x => wiresAfter (.checksumCompare x.1 x.2.1)
          == some { checksumGate := some x.2.2 }) = true := by decide

/-- Section 2.7. -/
theorem test_record_assemble :
    wiresAfter (.recordAssemble 52 2 0 1383) = some { record := some ⟨52, 2, 0, 0x0567⟩ }
      ∧ wiresAfter (.recordAssemble 255 3 1 (-1)) = some { record := some ⟨255, 3, 1, 0xFFFF⟩ } := by
  decide

theorem test_record_assemble_refuses :
    refusal? (exec (.recordAssemble 52 2 0 2049) State.reset) = some .tempOutOfRange := by decide

/-! DECODE, section 2.8. -/

/-- V-DEC-2 to 4, 6 and 8 to 14, each against the RSP word of the table. -/
theorem test_decode_success_vectors :
    ([(0x03456781, 0x21A40567), (0x03456780, 0x21A40567), (0x0345678F, 0x21A40567),
      (0xF0000000, 0x20000000), (0x9FFFFFFF, 0x27FFFFFF), (0x01280060, 0x20930800),
      (0x11280160, 0x2093F801), (0x5A57FF20, 0x252907FF), (0xB7EFFFA0, 0x23F5FFFF),
      (0x101ED420, 0x2009FED4), (0x580001D0, 0x24060001)] : List (FrameWord × RspWord)).all
        (fun x =>
          (resAfter (frameRequest x.1)).map packRsp == some ((bitsOf x.2).map some)) = true := by decide

/-- V-DEC-1, 5 and 7; V-DEC-15 to 17. -/
theorem test_decode_failure_vectors :
    ([0xC3456781, 0x03456791, 0x00000000] : List FrameWord).all
        (fun w => resAfter (frameRequest w) == some (some .integrityViolation)) = true
    ∧ ([(⟨28, 28, 28, 27, 28, 28, 28⟩, 0xC3456781), (⟨28, 28, 28, 28, 28, 28, 29⟩, 0x03456781),
        (⟨0, 0, 0, 0, 0, 0, 0⟩, 0x03456781)] : List (RowCounts × FrameWord)).all
        (fun x => resAfter ⟨x.1, FrameBytes.ofWord x.2⟩ == some (some .structuralMismatch)) = true := by
  decide

/-- V-DEC-1's and V-DEC-15's packed result: 1 10 x{27} and 1 01 x{27}; VALID = 0 is 0 x{29}. -/
theorem test_pack_rsp :
    packRsp (some .integrityViolation)
        = [some true, some true, some false] ++ List.replicate 27 none
      ∧ packRsp (some .structuralMismatch)
        = [some true, some false, some true] ++ List.replicate 27 none
      ∧ packRsp none = some false :: List.replicate 29 none := by decide

/-! Host transactions. -/

/-- P1: after RESET a read of RES gives NONE and a read of RES.ID faults. -/
theorem test_read_after_reset :
    (next? (step (hosted [.read .res]))).map State.replies = some [.res none]
      ∧ fault? (step (hosted [.read (.field .id)])) = some (.noValue .id)
      ∧ (next? (step (hosted [.read (.field .valid)]))).map State.replies = some [.valid 0] := by decide

/-- P5: RESET empties RES. -/
theorem test_reset_clears :
    (next? (step (holding (.success record2) [.reset]))).map State.res = some none := by decide

/-- R177: a read during a DECODE sees the RES before it. -/
theorem test_read_during_decode :
    (next? (step (holding (.success record2) [.request [.read (.field .id)]]))).map
        (fun t => (t.replies, t.res))
      = some ([.id 52], some .structuralMismatch) := by decide

/-- U6, U7, and RESET being legal once the DECODE is over. -/
theorem test_window_refusals :
    refusal? (step (hosted [.request [.present (frameRequest 0)]])) = some .inputsChanged
      ∧ refusal? (step (hosted [.request [.reset]])) = some .resetDuringDecode
      ∧ (next? (step (hosted [.request [], .reset]))).map State.pending = some [.reset] := by decide

/-- R172, U5. -/
theorem test_power_up_read_faults :
    fault? (step { State.powerUp with pending := [.read .res] }) = some .resUnspecified := by decide

/-- R42: a burst of rows 0..5 only is presented with the counts 0 for rows 6 and 7 (V-WG-6). -/
theorem test_present_short_burst :
    (presentBurst (List.replicate 6 (List.replicate 28 true))).counts
      = ⟨28, 28, 28, 28, 28, 0, 0⟩ := by decide

/-- The first 24 bits of row 1 are b0, b1, b2, most significant bit first (R43): C3 45 67. -/
theorem test_present_bytes :
    let bits := [true, true, false, false, false, false, true, true, false, true, false, false, false,
      true, false, true, false, true, true, false, false, true, true, true, true, false, false, false]
    let f := (presentBurst [[], bits]).row1
    f.b0 = 0xC3 ∧ f.b1 = 0x45 ∧ f.b2 = 0x67 := by decide

/-! Witnesses: for each statement with hypotheses, values that meet all of them together, one for each clause, at the
bounds of the ranges. -/

/-- The counts that pass. -/
def counts28 : RowCounts := ⟨28, 28, 28, 28, 28, 28, 28⟩

/-- FrameBitsArriveMostSignificantFirst, at the last bit of a 32-bit row. -/
theorem witness_frame_bits :
    ([[], List.replicate 32 true] : Burst)[1]? = some (List.replicate 32 true) ∧ 31 < 32
      ∧ (List.replicate 32 true)[31]? = some true := by decide

/-- AbsentRowsFailTheGate, its first clause at both bounds: the last row of a burst of rows 0..6, every row of an empty one. -/
theorem witness_absent_rows :
    (1 ≤ 7 ∧ 7 ≤ 7 ∧ (List.replicate 7 [] : Burst).length ≤ 7) ∧ (1 ≤ 1 ∧ ([] : Burst).length ≤ 1) := by decide

/-- EncodedInstructionsDecodeToThemselves, at both bounds of TEMP. -/
theorem witness_well_formed :
    (Instr.recordAssemble 255 3 1 2048).wf = true ∧ (Instr.recordAssemble 255 3 1 (-2047)).wf = true
      ∧ (Instr.decode (frameRequest 0xFFFFFFFF)).wf = true := by decide

/-- FirstTxIsCoveredThoughNotOutput: V-DEC-2 is a frame that was valid. -/
theorem witness_valid_frame :
    exec (.decode ⟨counts28, ⟨0x03, 0x45, 0x67, 0x81⟩⟩) State.reset
      = .next { State.reset with res := some (.success record2), unspecified := false,
                                 wires := Wires.idle } := rfl

/-- SignedReconIsBijective: the bounds of its range and the place where its two clauses meet; and equal operands. -/
theorem witness_temperatures :
    (-2047 : Int) ≤ -2047 ∧ (-2047 : Int) ≤ 2048 ∧ (-2047 : Int) ≤ -1 ∧ (0 : Int) ≤ 2048
      ∧ wiresAfter (.signedRecon 4095) = wiresAfter (.signedRecon 4095) := by decide

/-- RecordHoldsTheFields, at both bounds. -/
theorem witness_record_range :
    (-2047 : Int) ≤ 2048 ∧ (2048 : Int) ≤ 2048 ∧ (-2047 : Int) ≤ -2047 := by decide

/-- RecordRefusedOutsideRangeOnly: the first integers outside. -/
theorem witness_record_outside :
    refusal? (exec (.recordAssemble 0 0 0 2049) State.reset) = some .tempOutOfRange
      ∧ refusal? (exec (.recordAssemble 0 0 0 (-2048)) State.reset) = some .tempOutOfRange := by decide

/-- StagesChangeOnlyIntermediateValues. -/
theorem witness_stage :
    (∀ r, Instr.highNibble 0xC3 ≠ .decode r)
      ∧ exec (.highNibble 0xC3) State.reset
        = .next (State.reset.drive { nibbleHigh := some 12 }) := ⟨nofun, rfl⟩

/-- DecodeGivesItsThreeResults: a count of 29, a checksum that differs, and one that matches at S = 0 and at TRAW = 2048
and 2049 (V-DEC-16, 7, 6, 9, 10). -/
theorem witness_three_results :
    resAfter ⟨⟨28, 28, 28, 28, 28, 28, 29⟩, FrameBytes.ofWord 0x03456781⟩
        = some (some .structuralMismatch)
      ∧ ((0x00000000#32).extractLsb' 28 4).toNat ≠ ((0 : Int) - 1) % 16
      ∧ ((0xF0000000#32).extractLsb' 28 4).toNat = ((0 : Int) - 1) % 16
      ∧ ((0x01280060#32).extractLsb' 8 12).toNat = 2048
      ∧ ((0x11280160#32).extractLsb' 8 12).toNat = 2049 := by decide

/-- StagesInSequenceGiveTheDecode: its hypothesis, and the stages of the three kinds of DECODE run to their end. -/
theorem witness_stage_sequence :
    State.reset.wires = Wires.idle
      ∧ ([(frameRequest 0x03456781, some (.success record2)),
          (frameRequest 0x03456791, some .integrityViolation),
          (Request.empty, some .structuralMismatch)] : List (Request × Option Result)).all
        (fun x => (next? (runStages x.1 stageCount State.reset)).map (fun t => wiresResult t.wires)
          == some x.2) = true := by decide

/-- WidthGateTestsExactEquality, its second clause: a count of 29 is not 28. -/
theorem witness_width_fails :
    let n : RowCounts := ⟨28, 28, 28, 28, 28, 28, 29⟩
    ¬(n.n1.toNat = 28 ∧ n.n2.toNat = 28 ∧ n.n3.toNat = 28 ∧ n.n4.toNat = 28 ∧ n.n5.toNat = 28
      ∧ n.n6.toNat = 28 ∧ n.n7.toNat = 28) := by decide

/-- ChecksumCompareTestsEquality, its second clause: V-DEC-1 (S6). -/
theorem witness_checksum_differs :
    let f : FrameBytes := ⟨0xC3, 0x45, 0x67, 0x81⟩
    (12#4) ≠ 0#4 ∧ checksumRx f.b0 = 12#4 ∧ computedChecksum f.b0 f.b1 f.b2 f.b3 = 0#4 := by decide

/-- WrongWidthIgnoresRowContent. -/
theorem witness_wrong_width :
    (⟨27, 28, 28, 28, 28, 28, 28⟩ : RowCounts) ≠ ⟨28, 28, 28, 28, 28, 28, 28⟩ := by decide

/-- ReservedNibbleNeverMatters: V-DEC-3 and V-DEC-4. -/
theorem witness_reserved_nibble :
    (0x03456780#32).extractLsb' 4 28 = (0x0345678F#32).extractLsb' 4 28
      ∧ (0x03456780#32) ≠ 0x0345678F#32 := by decide

/-- SingleNibbleChangesAreCaught, at the first and at the last nibble of both ranges; and a compensated change (R144). -/
theorem witness_single_nibble :
    ((0x04456781#32).extractLsb' (24 - 4 * (0 : Fin 6).val) 4
          ≠ (0x03456781#32).extractLsb' (24 - 4 * (0 : Fin 6).val) 4
      ∧ ∀ j : Fin 6, j ≠ 0 →
          (0x04456781#32).extractLsb' (24 - 4 * j.val) 4 = (0x03456781#32).extractLsb' (24 - 4 * j.val) 4)
      ∧ ((0x03456791#32).extractLsb' (24 - 4 * (5 : Fin 6).val) 4
          ≠ (0x03456781#32).extractLsb' (24 - 4 * (5 : Fin 6).val) 4
      ∧ ∀ j : Fin 6, j ≠ 5 →
          (0x03456791#32).extractLsb' (24 - 4 * j.val) 4 = (0x03456781#32).extractLsb' (24 - 4 * j.val) 4)
      ∧ resAfter (frameRequest 0x03456781) = some (some (.success record2))
      ∧ (0xC3456781#32).extractLsb' (28 - 4 * (0 : Fin 7).val) 4
          ≠ (0x03456781#32).extractLsb' (28 - 4 * (0 : Fin 7).val) 4
      ∧ (∀ j : Fin 7, j ≠ 0 →
          (0xC3456781#32).extractLsb' (28 - 4 * j.val) 4 = (0x03456781#32).extractLsb' (28 - 4 * j.val) 4)
      ∧ (0x03456791#32).extractLsb' (28 - 4 * (6 : Fin 7).val) 4
          ≠ (0x03456781#32).extractLsb' (28 - 4 * (6 : Fin 7).val) 4
      ∧ (∀ j : Fin 7, j ≠ 6 →
          (0x03456791#32).extractLsb' (28 - 4 * j.val) 4 = (0x03456781#32).extractLsb' (28 - 4 * j.val) 4)
      ∧ nibbleSum 0x03 0x45 0x67 0x81 % 16 = nibbleSum 0x04 0x35 0x67 0x81 % 16 := by decide

/-- NoOperationReadsRes. -/
theorem witness_any_res :
    exec (.lowNibble 0xC3) (holding (.success record2) [])
      = .next ((holding (.success record2) []).drive { nibbleLow := some 3 }) := rfl

/-- FailureHidesAnEarlierRecord: over an earlier SUCCESS, a count of 29 (V-DEC-16), and seven counts of 28 with a checksum
that differs (V-DEC-7). -/
theorem witness_failure_after_success :
    (holding (.success record2) []).res = some (.success record2)
      ∧ (29#16).toNat ≠ 28
      ∧ ((frameRequest 0).counts.n1.toNat = 28 ∧ (frameRequest 0).counts.n7.toNat = 28
        ∧ (((frameRequest 0).row1.word.extractLsb' 28 4).toNat : Int) ≠ ((0 : Int) - 1) % 16)
      ∧ ResField.tempDc ≠ .valid ∧ ResField.tempDc ≠ .outcome := by decide

/-- ReadsFaultWhereNoValueIsHeld: a state for each value of RES its clauses name. -/
theorem witness_read_states :
    State.reset.unspecified = false ∧ State.reset.res = none
      ∧ (holding .structuralMismatch []).unspecified = false
      ∧ (holding .structuralMismatch []).res = some .structuralMismatch
      ∧ (holding .integrityViolation []).unspecified = false
      ∧ (holding .integrityViolation []).res = some .integrityViolation
      ∧ (holding (.success record2) []).unspecified = false
      ∧ (holding (.success record2) []).res = some (.success record2) := by decide

/-- PowerUpReadsFaultUntilReset. -/
theorem witness_power_up : State.powerUp.unspecified = true := rfl

/-- StepRunsTheRequestedInstruction, with nothing and with a read in between. -/
theorem witness_window_runs :
    runWindow [] State.reset = .next State.reset
      ∧ runWindow [.read .res] State.reset = .next { State.reset with replies := [.res none] } :=
  ⟨rfl, rfl⟩

/-- OtherTransactionsChangeOneThing. -/
theorem witness_other_transactions :
    State.reset.pending = [] ∧ portValue .res State.reset = .ok (.res none) := ⟨rfl, rfl⟩

/-- DecodeCompletesAndReadsSeeThePreviousRes, InputChangeDuringDecodeIsRefused, ResetDuringDecodeIsRefused. -/
theorem witness_harmless :
    harmlessWindow [.read .res, .present Request.empty, .read (.field .valid)] State.reset = true
      ∧ frameRequest 0 ≠ State.reset.ports := by decide

/-- OtherRowsHaveNoEffect: two bursts that differ in row 0, in row 8 and in the content of row 2. -/
theorem witness_other_rows :
    let a : Burst := [[true], [true, false], [true], [], [], [], [], []]
    let b : Burst := [[], [true, false], [false], [], [], [], [], [], [true]]
    a ≠ b ∧ a[1]? = b[1]?
      ∧ ∀ r : Fin 8, 2 ≤ r.val → (a[r.val]?).map List.length = (b[r.val]?).map List.length := by
  decide

/-- OnlyDecodeAndResetWriteRes. -/
theorem witness_other_step :
    step (holding (.success record2) [.present (frameRequest 0)])
        = .next ((holding (.success record2) []).presentInputs (frameRequest 0))
      ∧ (∀ rest, (holding (.success record2) [.present (frameRequest 0)]).pending ≠ .reset :: rest)
      ∧ (∀ d rest, (holding (.success record2) [.present (frameRequest 0)]).pending ≠ .request d :: rest) :=
  ⟨rfl, nofun, nofun⟩

/-- OnlyTheHostChangesTheInputs. -/
theorem witness_inputs_change :
    step (hosted [.present (frameRequest 0)]) = .next (State.reset.presentInputs (frameRequest 0))
      ∧ (State.reset.presentInputs (frameRequest 0)).ports ≠ (hosted [.present (frameRequest 0)]).ports :=
  ⟨rfl, by decide⟩

/-- StepsKeepTheInvariant, with a DECODE that writes the most negative temperature (V-DEC-10). -/
theorem witness_invariant_step :
    (State.reset.request (frameRequest 0x11280160).word).Inv
      ∧ (next? (step (State.reset.request (frameRequest 0x11280160).word))).map State.res
        = some (some (.success ⟨18, 1, 1, 0xF801⟩)) := ⟨⟨rfl, rfl⟩, by decide⟩

/-- InstancesAreIndependent: two instances, each with a transaction of its own. -/
theorem witness_instances :
    (0 : Nat) ≠ 1
      ∧ ([hosted [.reset], hosted [.present (frameRequest 0)]])[0]? = some (hosted [.reset])
      ∧ step (hosted [.reset]) = .next State.reset
      ∧ stepInstance 0 [hosted [.reset], hosted [.present (frameRequest 0)]]
        = .next [State.reset, hosted [.present (frameRequest 0)]]
      ∧ stepInstance 1 [State.reset, hosted [.present (frameRequest 0)]]
        = .next [State.reset, State.reset.presentInputs (frameRequest 0)] :=
  ⟨by decide, rfl, rfl, rfl, rfl⟩

/-- PackedResultsReadBack: for each kind of RES, a word whose valueless bits are not 0. -/
theorem witness_packed :
    resLegal none = true ∧ fitsRsp 0x1FFFFFFF (packRsp none) = true
      ∧ resLegal (some .structuralMismatch) = true
      ∧ fitsRsp 0x2FFFFFFF (packRsp (some .structuralMismatch)) = true
      ∧ resLegal (some .integrityViolation) = true
      ∧ fitsRsp 0x37FFFFFF (packRsp (some .integrityViolation)) = true
      ∧ resLegal (some (.success ⟨18, 1, 1, 0xF801⟩)) = true
      ∧ fitsRsp 0x2093F801 (packRsp (some (.success ⟨18, 1, 1, 0xF801⟩))) = true := by decide

/-- OutcomeCodesAreDistinctAndReservedRefused: a word with VALID = 1 and OUTCOME = 3. -/
theorem witness_reserved_outcome :
    (0x38000000#30).getLsbD 29 = true ∧ (0x38000000#30).extractLsb' 27 2 = 3#2 := by decide

/-- FaultingReadDuringDecodeStopsTheRun: both faults, at the start of a window and after a harmless beginning. -/
theorem witness_faulting_read :
    harmlessWindow [.read .mic, .present Request.empty] State.reset = true
      ∧ portValue (.field .id) State.reset = .error (.noValue .id)
      ∧ harmlessWindow [] State.powerUp = true
      ∧ portValue .res State.powerUp = .error .resUnspecified := ⟨by decide, rfl, by decide, rfl⟩

end Sys2Proof.Tests
end

section
/-! PROOFS. The scope of the model (spec/00_scope.md): the constants, and the frame of the stages. -/

namespace Sys2Proof

open Machine

/-- R11: a stage that answers a next state has put intermediate values on the wires. -/
theorem stage_next_drives {i : Instr} {s t : State} (hi : ∀ r, i ≠ .decode r)
    (h : exec i s = .next t) : ∃ w, t = s.drive w := by
  obtain ⟨r, _, rfl, _, _⟩ | hdrive := exec_next_cases h
  · exact absurd rfl (hi r)
  · exact hdrive

/-- Settles O27: a stage only drives the wires, and `State.drive` writes no other field. -/
theorem stagesChangeOnlyIntermediateValues : Obligations.StagesChangeOnlyIntermediateValues := by
  intro i s t hi h
  obtain ⟨w, rfl⟩ := stage_next_drives hi h
  rw [drive_wires, State.drive]

/-- Settles O1, constant by constant. -/
theorem constantsHaveTheirDefaults : Obligations.ConstantsHaveTheirDefaults :=
  ⟨cfg_frameBits, cfg_gateFirstRow, cfg_gateLastRow, cfg_frameRow, cfg_frameBytes,
    cfg_tempThreshold, cfg_tempSubtrahend, cfg_tempScale, cfg_checksumOffset, cfg_checksumModulus,
    cfg_mic, cfg_fieldList, cfg_rowCountW, cfg_tempDcW⟩

end Sys2Proof
end

section
/-! PROOFS. The state of the block (spec/10_state.md): the invariant, who writes and who reads RES, and what the reads
of RES and of the constants answer. -/

namespace Sys2Proof

open Machine

/-! What DECODE and the stages take from the state. -/

/-- R24: a DECODE writes one and the same result whatever the state it starts from. -/
theorem exec_decode_writes_one_result (r : Request) :
    ∃ res, ∀ s : State, exec (.decode r) s = .next (s.writeRes res) := by
  have hexec : ∀ s, exec (.decode r) s = execDecode r s := fun _ => rfl
  simp only [hexec, execDecode, raise_eq]
  split
  · exact ⟨_, fun _ => rfl⟩
  · split
    · exact ⟨_, fun _ => rfl⟩
    · exact ⟨_, fun _ => rfl⟩

/-- R24, R25: a stage takes nothing from the state but the intermediate values. -/
theorem exec_stage_of_wires_eq {i : Instr} {s s' t : State} (hi : ∀ r, i ≠ .decode r)
    (hw : s'.wires = s.wires) (h : exec i s = .next t) : exec i s' = .next (s'.drive t.wires) := by
  cases i with
  | decode r => exact absurd rfl (hi r)
  | recordAssemble id ch bat temp =>
    simp only [exec, execRecordAssemble] at h ⊢
    split at h
    · rename_i hrange
      cases h
      rw [if_pos hrange, drive_wires, hw]
    · cases h
  | _ =>
    -- `t.wires` is `s.wires` with the stage's own wire driven, so `hw` is rewritten inside `exec`.
    cases h
    exact congrArg (fun w => exec _ { s' with wires := w }) hw

/-! What a host read answers. -/

/-- R23: a read of a field of RES, once RES is specified. -/
theorem portValue_field {s : State} (f : ResField) (hu : s.unspecified = false) :
    portValue (.field f) s = readField f s.res := by
  simp [portValue, hu]

/-- R72, R177: READ RES answers RES whole, once RES is specified. -/
theorem portValue_res {s : State} (hu : s.unspecified = false) :
    portValue .res s = .ok (.res s.res) := by
  simp [portValue, hu]

/-- R22: RES.VALID always holds a value. -/
@[simp] theorem readField_valid (res : Option Result) :
    readField .valid res = .ok (.valid (validFlag res)) := by
  cases res <;> rfl

/-- R23, R30: before the first DECODE no field but RES.VALID holds a value. -/
theorem readField_none {f : ResField} (hf : f ≠ .valid) : readField f none = .error (.noValue f) := by
  cases f with
  | valid => exact absurd rfl hf
  | _ => rfl

/-- R23, R66: after any DECODE RES.OUTCOME holds the name of the outcome. -/
@[simp] theorem readField_outcome (res : Result) :
    readField .outcome (some res) = .ok (.outcome res.outcome) := rfl

/-- R23, R153: after a failure no record field holds a value. -/
theorem readField_failure {f : ResField} (e : Failure) (hv : f ≠ .valid) (ho : f ≠ .outcome) :
    readField f (some e.result) = .error (.noValue f) := by
  cases f with
  | valid => exact absurd rfl hv
  | outcome => exact absurd rfl ho
  | _ => cases e <;> rfl

@[simp] theorem readField_id (rec : Record) :
    readField .id (some (.success rec)) = .ok (.id rec.id) := rfl
@[simp] theorem readField_channel (rec : Record) :
    readField .channel (some (.success rec)) = .ok (.channel rec.channel) := rfl
@[simp] theorem readField_batteryOk (rec : Record) :
    readField .batteryOk (some (.success rec)) = .ok (.batteryOk rec.batteryOk) := rfl
@[simp] theorem readField_tempDc (rec : Record) :
    readField .tempDc (some (.success rec)) = .ok (.tempDc rec.tempDc) := rfl

/-- R22: RES.VALID is 1 wherever RES holds a result. -/
theorem validFlag_of_ne_none {res : Option Result} (h : res ≠ none) : validFlag res = 1#1 := by
  cases res with
  | none => exact absurd rfl h
  | some r => rfl

/-- With `e` put before the transactions still to happen, `step` performs `e`. -/
theorem step_cons (s : State) (e : HostEvent) (rest : List HostEvent) :
    step { s with pending := e :: rest } = perform e { s with pending := rest } :=
  step_of_pending rfl

theorem perform_read (p : ReadPort) (s : State) : perform (.read p) s = readPort p s := rfl

/-- R177: the step of a read whose port holds a value records the reply and changes nothing else. -/
theorem step_read_of_ok {s : State} {p : ReadPort} {v : Reply} (rest : List HostEvent)
    (h : portValue p s = .ok v) :
    step { s with pending := .read p :: rest }
      = .next { s with pending := rest, replies := v :: s.replies } := by
  rw [step_cons, perform_read]
  exact readPort_of_ok ((portValue_congr p rfl rfl).trans h)

/-- R23: the step of a read whose port holds no value is the fault. -/
theorem step_read_of_error {s : State} {p : ReadPort} {e : Fault} (rest : List HostEvent)
    (h : portValue p s = .error e) : step { s with pending := .read p :: rest } = .fault e := by
  rw [step_cons, perform_read]
  exact readPort_of_error ((portValue_congr p rfl rfl).trans h)

/-! One host transaction. -/

/-- R22, R31: every transaction keeps the invariant. -/
theorem perform_keeps_inv {e : HostEvent} {s t : State} (hs : s.Inv) (h : perform e s = .next t) :
    t.Inv := by
  obtain ⟨r, -, rfl⟩ | ⟨-, rfl⟩ | ⟨during, vs, res, -, hlegal, rfl⟩ | ⟨p, v, -, -, rfl⟩ :=
    perform_next_cases h
  · exact hs
  · exact ⟨rfl, applyReset_wires s⟩
  · exact ⟨hlegal, writeRes_wires _ res⟩
  · exact hs

/-- R20, R27: a transaction that is no RESET and no DECODE request leaves RES as it was. -/
theorem perform_keeps_res {e : HostEvent} {s t : State} (hreset : e ≠ .reset)
    (hrequest : ∀ during, e ≠ .request during) (h : perform e s = .next t) :
    t.res = s.res ∧ t.unspecified = s.unspecified := by
  obtain ⟨r, -, rfl⟩ | ⟨rfl, -⟩ | ⟨during, vs, res, rfl, -, -⟩ | ⟨p, v, -, -, rfl⟩ :=
    perform_next_cases h
  · exact ⟨presentInputs_res s r, presentInputs_unspecified s r⟩
  · exact absurd rfl hreset
  · exact absurd rfl (hrequest during)
  · exact ⟨rfl, rfl⟩

/-! The obligations. -/

/-- Settles O53: a step is no transaction or one, and each transaction keeps the invariant. -/
theorem stepsKeepTheInvariant : Obligations.StepsKeepTheInvariant := by
  intro s t hs h
  obtain ⟨-, rfl⟩ | ⟨e, rest, -, hperform⟩ := step_next_cases h
  · exact hs
  · exact perform_keeps_inv (s := { s with pending := rest }) hs hperform

/-- Settles O30: DECODE's result and, for the stages, the values driven come out the same over any RES. -/
theorem noOperationReadsRes : Obligations.NoOperationReadsRes := by
  refine ⟨exec_decode_writes_one_result, fun i s t x u h => ?_⟩
  by_cases hdec : ∃ r, i = .decode r
  · obtain ⟨r, rfl⟩ := hdec
    obtain ⟨res, hres⟩ := exec_decode_writes_one_result r
    have ht : s.writeRes res = t := Host.Outcome.next.inj ((hres s).symm.trans h)
    exact ⟨_, hres _, by rw [← ht, writeRes_wires, writeRes_wires]⟩
  · have hi : ∀ r, i ≠ .decode r := fun r hr => hdec ⟨r, hr⟩
    exact ⟨_, exec_stage_of_wires_eq (s := s) hi rfl h, drive_wires _ _⟩

/-- Settles O37, by what `readField` gives for each value of RES. -/
theorem readsFaultWhereNoValueIsHeld : Obligations.ReadsFaultWhereNoValueIsHeld := by
  intro s rest f hu answer replies
  have hok : ∀ {g v}, f = g → readField g s.res = .ok v → answer = replies v :=
    fun hf h => step_read_of_ok rest ((portValue_field f hu).trans (hf ▸ h))
  have hfault : readField f s.res = .error (.noValue f) → answer = .fault (.noValue f) :=
    fun h => step_read_of_error rest ((portValue_field f hu).trans h)
  refine ⟨step_read_of_ok rest (portValue_res hu), fun hr hf => ?_, fun hr hf => ?_, fun hr hf => ?_,
    fun hr hf => ?_, fun hr hf => ?_, ?_, fun rec hr => ⟨?_, ?_, ?_, ?_, ?_⟩⟩
  · exact hok hf (by rw [readField_valid, hr]; rfl)
  · exact hok hf (by rw [readField_valid, validFlag_of_ne_none hr])
  · exact hfault (by rw [hr, readField_none hf])
  · exact hok hf (by rw [hr, readField_outcome]; rfl)
  · exact hok hf (by rw [hr, readField_outcome]; rfl)
  · rintro (hr | hr) hv ho
    · exact hfault (hr ▸ readField_failure .structuralMismatch hv ho)
    · exact hfault (hr ▸ readField_failure .integrityViolation hv ho)
  · exact fun hf => hok hf (by rw [hr, readField_outcome]; rfl)
  · exact fun hf => hok hf (by rw [hr, readField_id])
  · exact fun hf => hok hf (by rw [hr, readField_channel])
  · exact fun hf => hok hf (by rw [hr, readField_batteryOk])
  · exact fun hf => hok hf (by rw [hr, readField_tempDc])

/-- Settles O51: of the transactions only RESET and a DECODE request write RES. -/
theorem onlyDecodeAndResetWriteRes : Obligations.OnlyDecodeAndResetWriteRes := by
  intro s t h hreset hrequest
  obtain ⟨-, rfl⟩ | ⟨e, rest, hp, hperform⟩ := step_next_cases h
  · exact ⟨rfl, rfl⟩
  · refine perform_keeps_res (s := { s with pending := rest }) ?_ ?_ hperform
    · rintro rfl
      exact hreset rest hp
    · rintro during rfl
      exact hrequest during rest hp

/-- Settles O2: `State.reset` has no RES, so of its fields only RES.VALID answers. -/
theorem resetLeavesResWithoutValue : Obligations.ResetLeavesResWithoutValue := by
  refine ⟨reset_res, ?_, fun f hf => ?_, rfl, rfl, rfl⟩
  · rw [portValue_field _ reset_unspecified, readField_valid, reset_res]
    rfl
  · rw [portValue_field _ reset_unspecified, reset_res, readField_none hf]

/-- Settles O38: a constant's port answers its value in every state. -/
theorem constantsReadTheSameAlways : Obligations.ConstantsReadTheSameAlways :=
  fun _ rest => ⟨step_read_of_ok rest rfl, step_read_of_ok rest rfl, step_read_of_ok rest rfl,
    fun _ => ⟨rfl, rfl⟩⟩

/-- Settles O54: RES `none` is legal and the wires are idle. -/
theorem resetMeetsTheInvariant : Obligations.ResetMeetsTheInvariant := ⟨rfl, reset_wires⟩

end Sys2Proof
end

section
/-! PROOFS. The inputs (spec/20_memory.md): the locations of the burst view, the byte order of the frame word, the
snapshot a DECODE takes, and who changes the inputs. -/

namespace Sys2Proof

open Machine

/-! The locations of the burst view. -/

/-- R41: the rows without a count input. -/
theorem RowCounts.row?_eq_none_iff (n : RowCounts) (r : Nat) :
    n.row? r = none ↔ r < 1 ∨ 7 < r := by
  match r with
  | 0 => simp [RowCounts.row?]
  | 1 | 2 | 3 | 4 | 5 | 6 | 7 => simp [RowCounts.row?]
  | m + 8 => simp [RowCounts.row?]

/-- R41: the bytes that are no input. -/
theorem FrameBytes.byte?_eq_none_iff (f : FrameBytes) (k : Nat) : f.byte? k = none ↔ 3 < k := by
  match k with
  | 0 | 1 | 2 | 3 => simp [FrameBytes.byte?]
  | m + 4 => simp [FrameBytes.byte?]

/-- R41: `RowBits(r)` is refused exactly for r outside 1..7. -/
theorem rowBits_eq_error_iff (v : Request) (r : Nat) :
    rowBits v r = .error (.noSuchRow r) ↔ r < 1 ∨ 7 < r := by
  rw [← v.counts.row?_eq_none_iff, rowBits]
  cases v.counts.row? r <;> simp

/-- R41: `RowByte(r, k)` is refused exactly off the frame row and for k outside 0..3. -/
theorem rowByte_eq_error_iff (v : Request) (r k : Nat) :
    rowByte v r k = .error (.noSuchByte r k) ↔ r ≠ 1 ∨ 3 < k := by
  rw [rowByte, cfg_frameRow, cfg_frameBytes]
  by_cases hr : r = 1
  · by_cases hk : k < 4
    · have hinput : v.row1.byte? k ≠ none := by
        rw [Ne, v.row1.byte?_eq_none_iff]
        omega
      obtain ⟨b, hb⟩ := Option.ne_none_iff_exists'.1 hinput
      rw [if_pos ⟨hr, hk⟩, hb]
      simp only [reduceCtorEq, false_iff]
      omega
    · rw [if_neg (fun h => hk h.2)]
      exact iff_of_true rfl (.inr (by omega))
  · rw [if_neg (fun h => hr h.1)]
    exact iff_of_true rfl (.inl hr)

/-! The frame word (R43). -/

/-- R43: the four bytes stand in their slices of the frame word, b0 first. -/
theorem word_slices (f : FrameBytes) :
    f.word.extractLsb' 24 8 = f.b0 ∧ f.word.extractLsb' 16 8 = f.b1
      ∧ f.word.extractLsb' 8 8 = f.b2 ∧ f.word.extractLsb' 0 8 = f.b3 :=
  FrameBytes.mk.inj (ofWord_word f)

/-- R43, R62: a byte that stands in bits `k + 7` to `k` of the frame word is received from its bit 7 down. -/
theorem frameBit_of_slice {w : FrameWord} {k i j : Nat} {b : Byte} (hw : w.extractLsb' k 8 = b)
    (hj : j < 8) (hi : 31 - i = k + (7 - j)) : frameBit w i = b.getLsbD (7 - j) := by
  have hlt : 7 - j < 8 := by omega
  rw [frameBit, hi, ← hw, BitVec.getLsbD_extractLsb', decide_eq_true hlt, Bool.true_and]

/-! The inputs and the host's transactions. -/

/-- R64: a request word decodes to the DECODE of the request it packs. -/
theorem decodeRequest_word (r : Request) : decodeRequest r.word = .decode r := by
  rw [decodeRequest, ofWord_request]

/-- R45: a request whose window runs to its end is `exec` of the snapshot's DECODE at the end of the window. -/
theorem perform_request_of_window {during : List WindowEvent} {s t : State}
    (h : runWindow during s = .next t) :
    perform (.request during) s = exec (decodeRequest s.ports.word) t := by
  simp only [perform, transact, fetch_eq, h]

/-- R46: of the transactions only the host's presenting of inputs changes them. -/
theorem perform_keeps_ports {e : HostEvent} {s t : State} (h : perform e s = .next t)
    (hpresent : ∀ r, e ≠ .present r) : t.ports = s.ports := by
  obtain ⟨r, rfl, -⟩ | ⟨-, rfl⟩ | ⟨during, vs, res, -, -, rfl⟩ | ⟨p, v, -, -, rfl⟩ :=
    perform_next_cases h
  · exact absurd rfl (hpresent r)
  · exact applyReset_ports s
  · exact writeRes_ports _ res
  · rfl

/-! The obligations. -/

/-- Settles O48: every location answers its input by evaluation, and the refusals are where there is no input. -/
theorem burstViewHasExactlyItsLocations : Obligations.BurstViewHasExactlyItsLocations := by
  intro v r k
  exact ⟨rfl, rfl, rfl, rfl, rfl, rfl, rfl, rowBits_eq_error_iff v r, rfl, rfl, rfl, rfl,
    rowByte_eq_error_iff v r k⟩

/-- Settles O52: a step is no transaction or one, and of those only presenting inputs changes them. -/
theorem onlyTheHostChangesTheInputs : Obligations.OnlyTheHostChangesTheInputs := by
  intro s t h hne
  obtain ⟨-, rfl⟩ | ⟨e, rest, hp, hperform⟩ := step_next_cases h
  · exact absurd rfl hne
  · by_cases hpresent : ∃ r, e = .present r
    · obtain ⟨r, rfl⟩ := hpresent
      cases hperform
      exact ⟨r, rest, hp, rfl⟩
    · exact absurd (perform_keeps_ports (s := { s with pending := rest }) hperform
        (not_exists.1 hpresent)) hne

/-- Settles O5: each byte stands in its slice, and its bits are the frame bits of that slice. -/
theorem frameWordIsBigEndian : Obligations.FrameWordIsBigEndian := by
  intro f
  obtain ⟨h0, h1, h2, h3⟩ := word_slices f
  exact ⟨h0, h1, h2, h3, fun j hj =>
    ⟨frameBit_of_slice h0 hj (by omega), frameBit_of_slice h1 hj (by omega),
      frameBit_of_slice h2 hj (by omega), frameBit_of_slice h3 hj (by omega)⟩⟩

/-- Settles O42: the step performs the request, whose word is the packed snapshot of the inputs. -/
theorem stepRunsTheRequestedInstruction : Obligations.StepRunsTheRequestedInstruction :=
  fun s _ during rest h => ⟨fetch_eq s, decodeRequest_word s.ports,
    (step_cons s (.request during) rest).trans (perform_request_of_window h)⟩

end Sys2Proof
end

section
/-! PROOFS. The encoding (spec/30_encoding.md): the formats of the request, of the frame and of the result, and the
words of the instructions. -/

namespace Sys2Proof

open Machine

/-! The frame word (R60, R62). -/

/-- R43: bit `i` of a byte in the order received is bit `8 * k + i` of its row. -/
theorem rowByteOf_getLsbD (pad : Nat → Bool) (row : BitRow) (k : Nat) {i : Nat} (hi : i < 8) :
    (rowByteOf pad row k).getLsbD (7 - i) = rowBit pad row (8 * k + i) := by
  simp only [rowByteOf, BitVec.getLsbD_append, BitVec.getLsbD_ofBool]
  interval_cases i <;> simp

/-- R42, R43: bit `j` of the presented frame word, in the order received, is bit `j` of row 1. -/
theorem frameBit_presentBurst (b : Burst) {j : Nat} (hj : j < 32) :
    frameBit (presentBurst b).row1.word j = rowBit (Config.padBit b) ((b[1]?).getD []) j := by
  obtain ⟨k, i, hk, hi, rfl⟩ : ∃ k i, k < 4 ∧ i < 8 ∧ j = 8 * k + i :=
    ⟨j / 8, j % 8, by omega, by omega, by omega⟩
  obtain ⟨-, -, -, -, hbits⟩ := frameWordIsBigEndian (presentBurst b).row1
  obtain ⟨h0, h1, h2, h3⟩ := hbits i hi
  rw [← rowByteOf_getLsbD _ _ k hi]
  match k, hk with
  | 0, _ => rw [Nat.mul_zero, Nat.zero_add, h0]; rfl
  | 1, _ => exact h1
  | 2, _ => exact h2
  | 3, _ => exact h3

/-- A bit that a row has is presented as it is (R43). -/
theorem rowBit_of_getElem? {pad : Nat → Bool} {row : BitRow} {j : Nat} {x : Bool}
    (h : row[j]? = some x) : rowBit pad row j = x := by
  rw [rowBit, h, Option.getD_some]

/-! The request word (R64). -/

/-- R64: a request word is the word of the request read from it. -/
theorem word_ofWord_request (w : ReqWord) : (Request.ofWord w).word = w := by
  apply BitVec.eq_of_toNat_eq
  have hw := w.isLt
  rw [request_toNat, counts_toNat]
  simp only [Request.ofWord, word_ofWord, BitVec.extractLsb'_toNat, Nat.shiftRight_eq_div_pow]
  omega

/-- The 18 bytes of a request word, most significant first, decode as the word does (log entry 16). -/
theorem decodeBytes_bytes (w : ReqWord) : decodeBytes w.bytes = .ok (decodeRequest w) := by
  have hlen : w.bytes.length = 18 := by rw [ReqWord.bytes, List.length_map, List.length_range]
  have hnat : bytesToNat w.bytes = w.toNat := by
    rw [ReqWord.bytes, bytesToNat_prefix w 18 le_rfl, Nat.sub_self, Nat.mul_zero, Nat.pow_zero,
      Nat.div_one]
  rw [decodeBytes, if_pos hlen, hnat, BitVec.ofNat_toNat, BitVec.setWidth_eq]

/-! The result word (R65, R66). -/

/-- The bits of a word, listed from the most significant one. -/
theorem bitsOf_getElem? {n : Nat} (w : BitVec n) {i : Nat} (hi : i < n) :
    (bitsOf w)[n - 1 - i]? = some (w.getLsbD i) := by
  have hlt : n - 1 - i < n := by omega
  have hback : n - 1 - (n - 1 - i) = i := by omega
  simp [bitsOf, hlt, hback]

/-- R65: a word that fits a packed result has each bit that holds a value there. -/
theorem getLsbD_of_fitsRsp {w : RspWord} {p : List (Option Bool)} {i : Nat} {b : Bool}
    (h : fitsRsp w p = true) (hi : i < 30) (hp : p[29 - i]? = some (some b)) : w.getLsbD i = b := by
  have hzip : ((bitsOf w).zip p)[29 - i]? = some (w.getLsbD i, some b) :=
    List.getElem?_zip_eq_some.2 ⟨bitsOf_getElem? w hi, hp⟩
  simp only [fitsRsp, Bool.and_eq_true] at h
  obtain ⟨-, hall⟩ := h
  exact eq_of_beq (List.all_eq_true.1 hall _ (List.mem_of_getElem? hzip))

/-- R65: where every bit of a packed result holds a value, it fits one word only. -/
theorem eq_of_fitsRsp_bitsOf {w v : RspWord} (h : fitsRsp w ((bitsOf v).map some) = true) : w = v :=
  BitVec.eq_of_getLsbD_eq fun i hi =>
    getLsbD_of_fitsRsp h hi (by rw [List.getElem?_map, bitsOf_getElem? v hi, Option.map_some])

/-- R65: a packed failure holds VALID = 1 and its OUTCOME code. -/
theorem fields_of_fitsRsp_failure {w : RspWord} (e : Failure)
    (h : fitsRsp w (packRsp (some e.result)) = true) :
    w.getLsbD 29 = true ∧ w.extractLsb' 27 2 = e.result.outcome.code := by
  have h29 : w.getLsbD 29 = true := getLsbD_of_fitsRsp h (by decide) (by cases e <;> rfl)
  have h28 : w.getLsbD 28 = e.result.outcome.code.getLsbD 1 :=
    getLsbD_of_fitsRsp h (by decide) (by cases e <;> rfl)
  have h27 : w.getLsbD 27 = e.result.outcome.code.getLsbD 0 :=
    getLsbD_of_fitsRsp h (by decide) (by cases e <;> rfl)
  refine ⟨h29, BitVec.eq_of_getLsbD_eq fun i hi => ?_⟩
  rw [BitVec.getLsbD_extractLsb', decide_eq_true hi, Bool.true_and]
  match i, hi with
  | 0, _ => exact h27
  | 1, _ => exact h28

/-- R66: an outcome is read back from its code. -/
@[simp] theorem ofCode?_code (c : OutcomeCode) : OutcomeCode.ofCode? c.code = some c := by
  cases c <;> rfl

/-- R22: a packed word with VALID = 0 stands for no result. -/
theorem unpackRsp_of_not_valid {w : RspWord} (hv : w.getLsbD 29 = false) :
    unpackRsp w = .ok none := by
  rw [unpackRsp, if_pos hv]

/-- R66: a packed word with a failure's code stands for that failure. -/
theorem unpackRsp_of_failure {w : RspWord} (e : Failure) (hv : w.getLsbD 29 = true)
    (hc : w.extractLsb' 27 2 = e.result.outcome.code) : unpackRsp w = .ok (some e.result) := by
  rw [unpackRsp, hv, hc, ofCode?_code]
  cases e <;> rfl

/-- R70 (c): the reserved code is refused. -/
theorem unpackRsp_of_reserved {w : RspWord} (hv : w.getLsbD 29 = true)
    (hc : w.extractLsb' 27 2 = 3#2) : unpackRsp w = .error (.badRsp .reservedOutcome) := by
  rw [unpackRsp, hv, hc]
  rfl

/-- R65: the fields of the word of a SUCCESS result. -/
theorem successWord_fields (rec : Record) :
    let w := successWord rec
    w.extractLsb' 29 1 = 1#1 ∧ w.extractLsb' 27 2 = 0#2 ∧ w.extractLsb' 19 8 = rec.id
      ∧ w.extractLsb' 17 2 = rec.channel ∧ w.extractLsb' 16 1 = rec.batteryOk
      ∧ w.extractLsb' 0 16 = rec.tempDc :=
  rsp_fields 1#1 0#2 rec.id rec.channel rec.batteryOk rec.tempDc

/-- R65: the word of a legal SUCCESS result is read back. -/
theorem unpackRsp_successWord {rec : Record} (h : resLegal (some (.success rec)) = true) :
    unpackRsp (successWord rec) = .ok (some (.success rec)) := by
  obtain ⟨h29, h27, h19, h17, h16, h0⟩ := successWord_fields rec
  have hrange : tempInRange rec.tempDc.toInt = true := h
  rw [unpackRsp, getLsbD_of_extract _ h29, h27, h19, h17, h16, h0, hrange]
  rfl

/-! The obligations. -/

/-- Settles O9, row by row. -/
theorem encodedInstructionsDecodeToThemselves :
    Obligations.EncodedInstructionsDecodeToThemselves := by
  intro i
  cases i with
  | decode r => exact Laws.RoundTrip.decode r
  | widthGate n => exact Laws.RoundTrip.widthGate n
  | highNibble b => exact Laws.RoundTrip.highNibble b
  | lowNibble b => exact Laws.RoundTrip.lowNibble b
  | extractChecksumRx b0 => exact Laws.RoundTrip.extractChecksumRx b0
  | extractId b0 b1 => exact Laws.RoundTrip.extractId b0 b1
  | extractTempRaw b1 b2 => exact Laws.RoundTrip.extractTempRaw b1 b2
  | extractChannel b3 => exact Laws.RoundTrip.extractChannel b3
  | extractBattery b3 => exact Laws.RoundTrip.extractBattery b3
  | extractFirstTx b3 => exact Laws.RoundTrip.extractFirstTx b3
  | signedRecon traw => exact Laws.RoundTrip.signedRecon traw
  | checksumCompute b0 b1 b2 b3 => exact Laws.RoundTrip.checksumCompute b0 b1 b2 b3
  | checksumCompare cRx cCalc => exact Laws.RoundTrip.checksumCompare cRx cCalc
  | recordAssemble id ch bat temp => exact Laws.RoundTrip.recordAssemble id ch bat temp

/-- Settles O6: the fields below a field are passed over, and what is left ends in that field. -/
theorem frameFieldsStandInTheirSlices : Obligations.FrameFieldsStandInTheirSlices := by
  intro f c
  refine ⟨?_, ?_, ?_, ?_, ?_, ?_, ?_⟩ <;>
    simp (disch := decide) only [FrameFields.wordWith, BitVec.extractLsb'_append_eq_of_le,
      BitVec.extractLsb'_append_eq_right, BitVec.extractLsb'_eq_self, Nat.reduceSub]

/-- Settles O7: the presented frame word holds row 1's bits in the order received. -/
theorem frameBitsArriveMostSignificantFirst : Obligations.FrameBitsArriveMostSignificantFirst := by
  intro b row j x hrow hj hx
  rw [frameBit_presentBurst b hj, hrow, Option.getD_some]
  exact rowBit_of_getElem? hx

/-- Settles O8: packing and reading are inverse, and the bytes of a word decode as the word. -/
theorem requestWordsAndRequestsCorrespond : Obligations.RequestWordsAndRequestsCorrespond :=
  ⟨ofWord_request, word_ofWord_request, decodeBytes_bytes⟩

/-- Settles O57: the bits that hold a value fix the fields `unpackRsp` reads. -/
theorem packedResultsReadBack : Obligations.PackedResultsReadBack := by
  intro res w hlegal hfits
  match res with
  | none => exact unpackRsp_of_not_valid (getLsbD_of_fitsRsp hfits (by decide) rfl)
  | some .structuralMismatch =>
    obtain ⟨hv, hc⟩ := fields_of_fitsRsp_failure .structuralMismatch hfits
    exact unpackRsp_of_failure .structuralMismatch hv hc
  | some .integrityViolation =>
    obtain ⟨hv, hc⟩ := fields_of_fitsRsp_failure .integrityViolation hfits
    exact unpackRsp_of_failure .integrityViolation hv hc
  | some (.success rec) =>
    rw [eq_of_fitsRsp_bitsOf hfits]
    exact unpackRsp_successWord hlegal

/-- Settles O4: each word is decoded by evaluation. -/
theorem writtenWordsDecode : Obligations.WrittenWordsDecode := by
  refine ⟨?_, ?_, ?_, ?_, ?_, ?_, ?_, ?_⟩ <;> decide

/-- Settles O10: whatever the request, its DECODE writes a result. -/
theorem everyRequestWordIsLegal : Obligations.EveryRequestWordIsLegal := by
  intro w s
  obtain ⟨res, hres⟩ := exec_decode_writes_one_result (Request.ofWord w)
  exact ⟨_, res, rfl, rfl, hres s⟩

/-- Settles O43: the step performs the request, whose window is empty and whose word is the one presented. -/
theorem fetchWordRunsNext : Obligations.FetchWordRunsNext := by
  intro s nbits w r
  rw [State.withFetchWord, step_of_pending (request_pending _ _), perform_request_of_window rfl,
    decodeRequest_word]
  rfl

/-- Settles O56: a success word is a record word with VALID = 1 and OUTCOME = 0. -/
theorem packedSuccessHasItsLayout : Obligations.PackedSuccessHasItsLayout := successWord_fields

/-- Settles O58, outcome by outcome. -/
theorem outcomeCodesAreDistinctAndReservedRefused :
    Obligations.OutcomeCodesAreDistinctAndReservedRefused :=
  ⟨fun c => ⟨ofCode?_code c, by cases c <;> decide⟩, rfl, rfl, fun _ => rfl,
    fun _ => unpackRsp_of_reserved⟩

end Sys2Proof
end

section
/-! PROOFS. DECODE (spec/40_decode.md): its three results, the stages it is made of, the record it assembles, and what
the host reads of that record. -/

namespace Sys2Proof

open Machine

/-! The conditions of DECODE on the counts and on the frame word (R60, R80). -/

/-- R100: each of the seven counts is 28. -/
def RowCounts.AllFrameWide (n : RowCounts) : Prop :=
  n.n1.toNat = 28 ∧ n.n2.toNat = 28 ∧ n.n3.toNat = 28 ∧ n.n4.toNat = 28 ∧ n.n5.toNat = 28
    ∧ n.n6.toNat = 28 ∧ n.n7.toNat = 28

/-- R63, R141: S, the sum of the six covered nibbles W[27:24] to W[7:4]. -/
def coveredSum (w : FrameWord) : Nat :=
  (w.extractLsb' 24 4).toNat + (w.extractLsb' 20 4).toNat + (w.extractLsb' 16 4).toNat
    + (w.extractLsb' 12 4).toNat + (w.extractLsb' 8 4).toNat + (w.extractLsb' 4 4).toNat

/-- R141, R142: C_RX is (S - 1) mod 16. -/
def ChecksumMatches (w : FrameWord) : Prop :=
  ((w.extractLsb' 28 4).toNat : Int) = ((coveredSum w : Int) - 1) % 16

/-- R100: WIDTH_GATE passes on seven counts of 28 and no others. -/
theorem widthGate_pass_iff_allFrameWide (n : RowCounts) :
    widthGate n = .pass ↔ n.AllFrameWide := by
  rw [widthGate_pass_iff]
  obtain ⟨n1, n2, n3, n4, n5, n6, n7⟩ := n
  simp only [RowCounts.mk.injEq, ← BitVec.toNat_inj]
  exact Iff.rfl

/-! The fields of the frame as slices of its word (R60). -/

/-- A field whose value is that of bits `k` and up of the frame word is that slice. -/
theorem eq_slice_of_toNat {w : FrameWord} {k n : Nat} {x : BitVec n}
    (h : x.toNat = w.toNat / 2 ^ k % 2 ^ n) : x = w.extractLsb' k n :=
  BitVec.eq_of_toNat_eq (by rw [h, BitVec.extractLsb'_toNat, Nat.shiftRight_eq_div_pow])

/-- R112: C_RX = W[31:28]. -/
theorem checksumRx_eq_slice (f : FrameBytes) : checksumRx f.b0 = f.word.extractLsb' 28 4 := by
  apply eq_slice_of_toNat
  rw [word_toNat, checksumRx, highNibble_toNat]
  omega

/-- R113: ID = W[27:20]. -/
theorem deviceId_eq_slice (f : FrameBytes) : deviceId f.b0 f.b1 = f.word.extractLsb' 20 8 := by
  apply eq_slice_of_toNat
  rw [word_toNat, deviceId_toNat]
  omega

/-- R114: TRAW = W[19:8]. -/
theorem tempRaw_eq_slice (f : FrameBytes) : tempRaw f.b1 f.b2 = f.word.extractLsb' 8 12 := by
  apply eq_slice_of_toNat
  rw [word_toNat, tempRaw_toNat]
  omega

/-- R115: CH = W[7:6]. -/
theorem channel_eq_slice (f : FrameBytes) : channel f.b3 = f.word.extractLsb' 6 2 := by
  apply eq_slice_of_toNat
  rw [word_toNat, channel_toNat]
  omega

/-- R116: BAT = W[5]. -/
theorem battery_eq_slice (f : FrameBytes) : battery f.b3 = f.word.extractLsb' 5 1 := by
  apply eq_slice_of_toNat
  rw [word_toNat, battery_toNat]
  omega

/-- R63, R141: the nibbles of CHECKSUM_COMPUTE are the six covered slices. -/
theorem nibbleSum_eq_coveredSum (f : FrameBytes) :
    nibbleSum f.b0 f.b1 f.b2 f.b3 = coveredSum f.word := by
  simp only [nibbleSum, coveredSum, lowNibble_toNat, highNibble_toNat, BitVec.extractLsb'_toNat,
    Nat.shiftRight_eq_div_pow, word_toNat]
  omega

/-- R141: C_CALC as a number. -/
theorem computedChecksum_toNat (f : FrameBytes) :
    (computedChecksum f.b0 f.b1 f.b2 f.b3).toNat = (coveredSum f.word + 15) % 16 := by
  rw [computedChecksum, checksumOf_toNat, nibbleSum_eq_coveredSum]

/-- R142: the two checksum nibbles are equal exactly where C_RX is (S - 1) mod 16. -/
theorem checksumRx_eq_computed_iff (f : FrameBytes) :
    checksumRx f.b0 = computedChecksum f.b0 f.b1 f.b2 f.b3 ↔ ChecksumMatches f.word := by
  rw [← BitVec.toNat_inj, computedChecksum_toNat, checksumRx_eq_slice, ChecksumMatches]
  omega

/-! The three results (R80). -/

/-- R85, R131: the record of a frame word. -/
def wordRecord (w : FrameWord) : Record :=
  recordAssemble (w.extractLsb' 20 8) (w.extractLsb' 6 2) (w.extractLsb' 5 1)
    (signedTemp (w.extractLsb' 8 12))

/-- R85, R131: the record of the frame's bytes, as the stages assemble it. -/
def bytesRecord (f : FrameBytes) : Record :=
  recordAssemble (deviceId f.b0 f.b1) (channel f.b3) (battery f.b3) (signedTemp (tempRaw f.b1 f.b2))

/-- R60: the extractors read the record of the bytes from the slices of their word. -/
theorem bytesRecord_eq_wordRecord (f : FrameBytes) : bytesRecord f = wordRecord f.word := by
  rw [bytesRecord, wordRecord, deviceId_eq_slice, channel_eq_slice, battery_eq_slice, tempRaw_eq_slice]

/-- R151: what DECODE does where a count is not 28. -/
theorem exec_decode_of_wrong_width {r : Request} (s : State) (hwide : ¬r.counts.AllFrameWide) :
    exec (.decode r) s = .next (s.writeRes .structuralMismatch) := by
  rw [← widthGate_pass_iff_allFrameWide] at hwide
  obtain ⟨-, h⟩ | ⟨hpass, -⟩ | ⟨hpass, -⟩ := execDecode_cases r s
  · exact h
  · exact absurd hpass hwide
  · exact absurd hpass hwide

/-- R152: what DECODE does where the counts are right and C_RX is wrong. -/
theorem exec_decode_of_wrong_checksum {r : Request} (s : State) (hwide : r.counts.AllFrameWide)
    (hsum : ¬ChecksumMatches r.row1.word) :
    exec (.decode r) s = .next (s.writeRes .integrityViolation) := by
  rw [← widthGate_pass_iff_allFrameWide] at hwide
  rw [← checksumRx_eq_computed_iff] at hsum
  obtain ⟨hfail, -⟩ | ⟨-, -, h⟩ | ⟨-, heq, -⟩ := execDecode_cases r s
  · nomatch hwide.symm.trans hfail
  · exact h
  · exact absurd heq hsum

/-- R80: what DECODE does where the counts and C_RX are right. -/
theorem exec_decode_of_valid {r : Request} (s : State) (hwide : r.counts.AllFrameWide)
    (hsum : ChecksumMatches r.row1.word) :
    exec (.decode r) s = .next (s.writeRes (.success (wordRecord r.row1.word))) := by
  rw [← widthGate_pass_iff_allFrameWide] at hwide
  rw [← checksumRx_eq_computed_iff] at hsum
  rw [← bytesRecord_eq_wordRecord]
  obtain ⟨hfail, -⟩ | ⟨-, hne, -⟩ | ⟨-, -, h⟩ := execDecode_cases r s
  · nomatch hwide.symm.trans hfail
  · exact absurd hsum hne
  · exact h

/-- A DECODE with a wrong count or a wrong C_RX writes one of the two failures. -/
theorem exec_decode_fails {r : Request} (s : State)
    (h : ¬r.counts.AllFrameWide ∨ ¬ChecksumMatches r.row1.word) :
    ∃ e : Failure, exec (.decode r) s = .next (s.writeRes e.result) := by
  by_cases hwide : r.counts.AllFrameWide
  · have hsum := h.resolve_left (not_not_intro hwide)
    exact ⟨.integrityViolation, exec_decode_of_wrong_checksum s hwide hsum⟩
  · exact ⟨.structuralMismatch, exec_decode_of_wrong_width s hwide⟩

/-- R130, R131: TEMP_DC of a frame word, by the threshold rule. -/
theorem wordRecord_tempDc_toInt (w : FrameWord) :
    (wordRecord w).tempDc.toInt
      = if 2048 < (w.extractLsb' 8 12).toNat then ((w.extractLsb' 8 12).toNat : Int) - 4096
        else ((w.extractLsb' 8 12).toNat : Int) :=
  toInt_ofInt_of_inRange _ (signedTemp_inRange _)

/-! RECORD_ASSEMBLE (R85). -/

/-- R85: on a TEMP in range the record is put on its wire. -/
theorem exec_recordAssemble_of_inRange (id : Byte) (ch : Channel) (bat : Flag) {temp : Int} (s : State)
    (h : tempInRange temp = true) :
    exec (.recordAssemble id ch bat temp) s
      = .next (s.drive { s.wires with record := some (recordAssemble id ch bat temp) }) :=
  if_pos h

/-- A TEMP outside the range is refused (log entry 14). -/
theorem exec_recordAssemble_of_outOfRange (id : Byte) (ch : Channel) (bat : Flag) {temp : Int}
    (s : State) (h : tempInRange temp = false) :
    exec (.recordAssemble id ch bat temp) s = .refused .tempOutOfRange :=
  if_neg (Bool.eq_false_iff.1 h)

/-! The stages in sequence (R80, R82). The intermediate values a DECODE has left after each of its parts. -/

/-- After the width gate. -/
def gateWires (v : Verdict) : Wires := { widthGate := some v }

/-- After the checksum stages, where the width gate has passed. -/
def checksumWires (f : FrameBytes) (v : Verdict) : Wires :=
  { gateWires .pass with
    cRx := some (checksumRx f.b0)
    sum := some (nibbleSum f.b0 f.b1 f.b2 f.b3)
    cCalc := some (computedChecksum f.b0 f.b1 f.b2 f.b3)
    checksumGate := some v }

/-- After the extractors and SIGNED_RECON, where both gates have passed. -/
def fieldWires (f : FrameBytes) : Wires :=
  { checksumWires f .pass with
    id := some (deviceId f.b0 f.b1)
    traw := some (tempRaw f.b1 f.b2)
    ch := some (channel f.b3)
    bat := some (battery f.b3)
    ftx := some (firstTx f.b3)
    temp := some (signedTemp (tempRaw f.b1 f.b2)) }

/-- After RECORD_ASSEMBLE. -/
def recordWires (f : FrameBytes) : Wires := { fieldWires f with record := some (bytesRecord f) }

/-- One stage of the sequence. -/
theorem runStages_succ {r : Request} {n : Nat} {s t : State} {i : Instr}
    (hstage : nextStage r s.wires = some i) (hexec : exec i s = .next t) :
    runStages r (n + 1) s = runStages r n t := by
  simp only [runStages, hstage, hexec]

/-- R82: after the end of a DECODE no stage runs. -/
theorem runStages_of_end {r : Request} {s : State} (n : Nat) (hend : nextStage r s.wires = none) :
    runStages r n s = .next s := by
  cases n with
  | zero => rfl
  | succ n => simp only [runStages, hend]

/-- R80, stage 1. -/
theorem runStages_widthGate (r : Request) (n : Nat) (s : State) :
    runStages r (n + 1) (s.drive Wires.idle)
      = runStages r n (s.drive (gateWires (widthGate r.counts))) :=
  runStages_succ rfl rfl

/-- R80, stages 2 and 3: EXTRACT_CHECKSUM_RX, CHECKSUM_COMPUTE, CHECKSUM_COMPARE. -/
theorem runStages_checksum (r : Request) (n : Nat) (s : State) :
    runStages r (n + 3) (s.drive (gateWires .pass))
      = runStages r n (s.drive (checksumWires r.row1
          (checksumGate (checksumRx r.row1.b0)
            (computedChecksum r.row1.b0 r.row1.b1 r.row1.b2 r.row1.b3)))) :=
  calc
    _ = runStages r (n + 2) _ := runStages_succ rfl rfl
    _ = runStages r (n + 1) _ := runStages_succ rfl rfl
    _ = _ := runStages_succ rfl rfl

/-- R80, stage 4 up to the record: the five extractors and SIGNED_RECON. -/
theorem runStages_fields (r : Request) (n : Nat) (s : State) :
    runStages r (n + 6) (s.drive (checksumWires r.row1 .pass))
      = runStages r n (s.drive (fieldWires r.row1)) :=
  calc
    _ = runStages r (n + 5) _ := runStages_succ rfl rfl
    _ = runStages r (n + 4) _ := runStages_succ rfl rfl
    _ = runStages r (n + 3) _ := runStages_succ rfl rfl
    _ = runStages r (n + 2) _ := runStages_succ rfl rfl
    _ = runStages r (n + 1) _ := runStages_succ rfl rfl
    _ = _ := runStages_succ rfl rfl

/-- R80, stage 4, the record: SIGNED_RECON's TEMP is one RECORD_ASSEMBLE is given (R130). -/
theorem runStages_record (r : Request) (n : Nat) (s : State) :
    runStages r (n + 1) (s.drive (fieldWires r.row1)) = runStages r n (s.drive (recordWires r.row1)) :=
  runStages_succ rfl (exec_recordAssemble_of_inRange _ _ _ _ (signedTemp_inRange _))

/-- The run of the stages to the end, by the gates in their order: it leaves on the wires the result DECODE writes. -/
theorem runStages_ends_with_decode (r : Request) (s : State) :
    ∃ w res, runStages r stageCount (s.drive Wires.idle) = .next (s.drive w)
      ∧ nextStage r w = none ∧ wiresResult w = some res
      ∧ exec (.decode r) s = .next (s.writeRes res) := by
  rw [stageCount, runStages_widthGate]
  obtain ⟨hw, h⟩ | ⟨hw, hc, h⟩ | ⟨hw, hc, h⟩ := execDecode_cases r s <;> rw [hw]
  · exact ⟨gateWires .fail, _, runStages_of_end _ rfl, rfl, rfl, h⟩
  · rw [runStages_checksum, (checksumGate_fail_iff _ _).2 hc]
    exact ⟨checksumWires r.row1 .fail, _, runStages_of_end _ rfl, rfl, rfl, h⟩
  · rw [runStages_checksum, (checksumGate_pass_iff _ _).2 hc, runStages_fields, runStages_record]
    exact ⟨recordWires r.row1, _, runStages_of_end _ rfl, rfl, rfl, h⟩

/-- Where no intermediate value stands, writing RES changes RES alone. -/
theorem writeRes_of_idle {s : State} (res : Result) (h : s.wires = Wires.idle) :
    s.writeRes res = { s with res := some res, unspecified := false } := by
  rw [State.writeRes, h]

/-! The MeasurementRecord (R88). -/

/-- R88: the battery's text, by the battery bit as a number. -/
theorem batteryText_eq (b : Flag) : batteryText b = if b.toNat = 1 then "OK" else "LOW" :=
  if_congr BitVec.toNat_inj.symm rfl rfl

/-- R132: ten times the temperature is TEMP_DC, with nothing lost. -/
theorem degreesC_mul_ten (t : TempDc) : degreesC t * 10 = (t.toInt : Rat) := by
  rw [degreesC, cfg_tempScale]
  exact div_mul_cancel₀ _ (by decide)

/-! The obligations. -/

/-- Settles O28: one lemma per result. -/
theorem decodeGivesItsThreeResults : Obligations.DecodeGivesItsThreeResults := by
  intro r s n w wide sum traw
  exact ⟨exec_decode_of_wrong_width s, exec_decode_of_wrong_checksum s, fun hwide hsum =>
    ⟨(wordRecord w).tempDc, wordRecord_tempDc_toInt w, exec_decode_of_valid s hwide hsum⟩⟩

/-- Settles O29: the stages only drive the wires, and end with DECODE's result on them. -/
theorem stagesInSequenceGiveTheDecode : Obligations.StagesInSequenceGiveTheDecode := by
  intro r s hidle
  obtain ⟨w, res, hrun, hend, hres, hdecode⟩ := runStages_ends_with_decode r s
  rw [← hidle] at hrun
  rw [writeRes_of_idle res hidle] at hdecode
  exact ⟨s.drive w, res, hrun, hend, rfl, hres, hdecode⟩

/-- Settles O36: DECODE writes one result over any RES, and a failure leaves no record field a value. -/
theorem failureHidesAnEarlierRecord : Obligations.FailureHidesAnEarlierRecord := by
  intro r s n w wide sum
  obtain ⟨res, hres⟩ := exec_decode_writes_one_result r
  refine ⟨s.writeRes res, hres s, fun old u => hres _, fun hfail f rest hv ho => ?_⟩
  obtain ⟨e, he⟩ := exec_decode_fails s hfail
  rw [Host.Outcome.next.inj ((hres s).symm.trans he)]
  apply step_read_of_error
  rw [portValue_field f (writeRes_unspecified _ _), writeRes_res]
  exact readField_failure e hv ho

/-- Settles O25: TEMP fits 16 bits, so the record holds it as it is. -/
theorem recordHoldsTheFields : Obligations.RecordHoldsTheFields := by
  intro id ch bat temp s hmin hmax
  have hrange := (tempInRange_iff temp).2 ⟨hmin, hmax⟩
  exact ⟨BitVec.ofInt 16 temp, toInt_ofInt_of_inRange temp hrange,
    exec_recordAssemble_of_inRange id ch bat s hrange⟩

/-- Settles O26: in range RECORD_ASSEMBLE completes, outside it is refused. -/
theorem recordRefusedOutsideRangeOnly : Obligations.RecordRefusedOutsideRangeOnly := by
  intro id ch bat temp s
  cases hrange : tempInRange temp with
  | true =>
    rw [exec_recordAssemble_of_inRange id ch bat s hrange]
    rw [tempInRange_iff] at hrange
    simp only [reduceCtorEq, false_iff]
    omega
  | false =>
    rw [exec_recordAssemble_of_outOfRange id ch bat s hrange]
    rw [tempInRange_false_iff] at hrange
    simp only [true_iff]
    omega

/-- Settles O41, value by value. -/
theorem measurementRecordPresentsTheResult : Obligations.MeasurementRecordPresentsTheResult := by
  intro rec m
  refine ⟨rfl, ?_, degreesC_mul_ten rec.tempDc⟩
  rw [← batteryText_eq]
  rfl

end Sys2Proof
end

section
/-! PROOFS. The row-width gate (spec/41_width_gate.md): what it passes, which bursts pass it, and what a DECODE does not
depend on. -/

namespace Sys2Proof

open Machine

/-! The gate on the seven counts (R100). -/

theorem exec_widthGate (n : RowCounts) (s : State) :
    exec (.widthGate n) s = .next (s.drive { s.wires with widthGate := some (widthGate n) }) := rfl

/-- R100: WIDTH_GATE fails exactly where some count is not 28. -/
theorem widthGate_fail_iff (n : RowCounts) : widthGate n = .fail ↔ ¬n.AllFrameWide := by
  rw [← widthGate_pass_iff_allFrameWide]
  cases widthGate n <;> decide

/-- R100: seven counts of 28, as one value. -/
theorem RowCounts.allFrameWide_iff_eq (n : RowCounts) :
    n.AllFrameWide ↔ n = ⟨28, 28, 28, 28, 28, 28, 28⟩ :=
  (widthGate_pass_iff_allFrameWide n).symm.trans (widthGate_pass_iff n)

/-- R80, R151: a DECODE gives STRUCTURAL_MISMATCH exactly where the width gate fails. -/
theorem exec_decode_eq_structuralMismatch_iff (r : Request) (s : State) :
    exec (.decode r) s = .next (s.writeRes .structuralMismatch) ↔ ¬r.counts.AllFrameWide := by
  refine ⟨fun h hwide => ?_, exec_decode_of_wrong_width s⟩
  by_cases hsum : ChecksumMatches r.row1.word
  · nomatch h.symm.trans (exec_decode_of_valid s hwide hsum)
  · nomatch h.symm.trans (exec_decode_of_wrong_checksum s hwide hsum)

/-! What a DECODE reads of the frame: W[31:4], and that only where the gate passes (R103, R118). -/

/-- Words that agree in W[31:4] agree in every slice above W[3:0]. -/
theorem slice_eq_of_upper_eq {w v : FrameWord} (h : w.extractLsb' 4 28 = v.extractLsb' 4 28)
    (k n : Nat) (hk : 4 ≤ k := by decide) (hn : k + n ≤ 32 := by decide) :
    w.extractLsb' k n = v.extractLsb' k n := by
  have hslice : ∀ u : FrameWord, u.extractLsb' k n = (u.extractLsb' 4 28).extractLsb' (k - 4) n := by
    intro u
    apply BitVec.eq_of_getLsbD_eq
    intro i hi
    have hin : k - 4 + i < 28 := by omega
    have hpos : 4 + (k - 4 + i) = k + i := by omega
    simp only [BitVec.getLsbD_extractLsb', hi, hin, hpos, decide_true, Bool.true_and]
  rw [hslice w, hslice v, h]

/-- R63, R118: the checksum test does not read W[3:0]. -/
theorem checksumMatches_congr {w v : FrameWord} (h : w.extractLsb' 4 28 = v.extractLsb' 4 28) :
    ChecksumMatches w ↔ ChecksumMatches v := by
  rw [ChecksumMatches, ChecksumMatches, coveredSum, coveredSum, slice_eq_of_upper_eq h 28 4,
    slice_eq_of_upper_eq h 24 4, slice_eq_of_upper_eq h 20 4, slice_eq_of_upper_eq h 16 4,
    slice_eq_of_upper_eq h 12 4, slice_eq_of_upper_eq h 8 4, slice_eq_of_upper_eq h 4 4]

/-- R60, R118: the record holds no bit of W[3:0]. -/
theorem wordRecord_congr {w v : FrameWord} (h : w.extractLsb' 4 28 = v.extractLsb' 4 28) :
    wordRecord w = wordRecord v := by
  rw [wordRecord, wordRecord, slice_eq_of_upper_eq h 20 8, slice_eq_of_upper_eq h 8 12,
    slice_eq_of_upper_eq h 6 2, slice_eq_of_upper_eq h 5 1]

/-- R103, R118: two requests have the same DECODE if the gate answers the same and, where it passes, their frames agree
in W[31:4]. -/
theorem exec_decode_congr {r q : Request} (s : State)
    (hgate : r.counts.AllFrameWide ↔ q.counts.AllFrameWide)
    (hframe : r.counts.AllFrameWide →
      r.row1.word.extractLsb' 4 28 = q.row1.word.extractLsb' 4 28) :
    exec (.decode r) s = exec (.decode q) s := by
  by_cases hwide : r.counts.AllFrameWide
  · have hdata := hframe hwide
    by_cases hsum : ChecksumMatches r.row1.word
    · rw [exec_decode_of_valid s hwide hsum, wordRecord_congr hdata,
        exec_decode_of_valid s (hgate.1 hwide) ((checksumMatches_congr hdata).1 hsum)]
    · rw [exec_decode_of_wrong_checksum s hwide hsum,
        exec_decode_of_wrong_checksum s (hgate.1 hwide) (mt (checksumMatches_congr hdata).2 hsum)]
  · rw [exec_decode_of_wrong_width s hwide, exec_decode_of_wrong_width s (mt hgate.2 hwide)]

/-! The counts and the frame the host presents for a burst (R42, R43). -/

/-- R101: rows 1..7 are there and each exactly 28 bits long. -/
def GatedRowsFrameWide (b : Burst) : Prop :=
  ∀ r, 1 ≤ r → r ≤ 7 → (b[r]?).map List.length = some 28

/-- R101: a burst with rows 1..7 has at least 8 rows. -/
theorem length_of_gatedRowsFrameWide {b : Burst} (h : GatedRowsFrameWide b) : 8 ≤ b.length := by
  obtain ⟨row, hrow, -⟩ := Option.map_eq_some_iff.1 (h 7 (by decide) le_rfl)
  obtain ⟨hlt, -⟩ := List.getElem?_eq_some_iff.1 hrow
  exact hlt

/-- D2: only a count of 28 is presented as 28, whatever stands for a count above 65535. -/
theorem presentCount_toNat_eq_28_iff (wide : Count) (n : Nat) :
    (presentCount wide n).toNat = 28 ↔ n = 28 := by
  rw [presentCount, cfg_rowCountW, cfg_frameBits]
  split
  · rw [BitVec.toNat_ofNat]
    omega
  · split
    · exact iff_of_false (by decide) (by omega)
    · exact iff_of_false ‹_› (by omega)

/-- R42, D3: a row the burst lacks is presented as 0. -/
theorem presentRowBits_of_absent {b : Burst} {r : Nat} (h : b.length ≤ r) :
    presentRowBits b r = 0#16 := by
  rw [presentRowBits, List.getElem?_eq_none h]

/-- R42: a row is presented as 28 exactly if the burst has it and it is 28 bits long. -/
theorem presentRowBits_toNat_eq_28_iff (b : Burst) (r : Nat) :
    (presentRowBits b r).toNat = 28 ↔ (b[r]?).map List.length = some 28 := by
  rw [presentRowBits]
  cases b[r]? with
  | none => exact iff_of_false (show (0#16).toNat ≠ 28 by decide) nofun
  | some row => rw [Option.map_some, Option.some_inj, presentCount_toNat_eq_28_iff]

/-- R41, R42: `RowBits(r)` of the inputs presented for a burst. -/
theorem rowBits_presentBurst (b : Burst) {r : Nat} (hmin : 1 ≤ r) (hmax : r ≤ 7) :
    rowBits (presentBurst b) r = .ok (presentRowBits b r) := by
  interval_cases r <;> rfl

/-- R101: the bursts whose presented counts pass the gate. -/
theorem presentBurst_allFrameWide_iff (b : Burst) :
    (presentBurst b).counts.AllFrameWide ↔ GatedRowsFrameWide b := by
  simp only [RowCounts.AllFrameWide, presentBurst, presentRowBits_toNat_eq_28_iff]
  constructor
  · rintro ⟨h1, h2, h3, h4, h5, h6, h7⟩ r hmin hmax
    interval_cases r <;> assumption
  · intro h
    refine ⟨h 1 ?_ ?_, h 2 ?_ ?_, h 3 ?_ ?_, h 4 ?_ ?_, h 5 ?_ ?_, h 6 ?_ ?_, h 7 ?_ ?_⟩ <;> decide

/-- R43, R62: a row 1 of 28 bits fixes W[31:4] of the presented frame; only W[3:0] holds filling. -/
theorem presentBurst_upper_eq {a b : Burst} (hrow : a[1]? = b[1]?)
    (hlen : (a[1]?).map List.length = some 28) :
    (presentBurst a).row1.word.extractLsb' 4 28 = (presentBurst b).row1.word.extractLsb' 4 28 := by
  obtain ⟨row, ha, h28⟩ := Option.map_eq_some_iff.1 hlen
  have hbit : ∀ burst : Burst, burst[1]? = some row → ∀ i (hi : i < 28),
      ((presentBurst burst).row1.word.extractLsb' 4 28).getLsbD i = row[27 - i] := by
    intro burst hburst i hi
    have hpos : 31 - (27 - i) = 4 + i := by omega
    rw [BitVec.getLsbD_extractLsb', decide_eq_true hi, Bool.true_and, ← hpos]
    have hframe := frameBit_presentBurst burst (j := 27 - i) (by omega)
    rw [hburst, Option.getD_some] at hframe
    exact hframe.trans (rowBit_of_getElem? (List.getElem?_eq_getElem _))
  exact BitVec.eq_of_getLsbD_eq fun i hi => (hbit a ha i hi).trans (hbit b (hrow ▸ ha) i hi).symm

/-! The obligations. -/

/-- Settles O31: with a wrong count DECODE writes the same result whatever the frame. -/
theorem wrongWidthIgnoresRowContent : Obligations.WrongWidthIgnoresRowContent := by
  intro n f g s hn
  have hwide : ¬n.AllFrameWide := mt n.allFrameWide_iff_eq.1 hn
  have hexec : ∀ f : FrameBytes, exec (.decode ⟨n, f⟩) s = .next (s.writeRes .structuralMismatch) :=
    fun f => exec_decode_of_wrong_width s hwide
  exact ⟨hexec f, (hexec g).trans (hexec f).symm⟩

/-- Settles O49: the gate passes the presented counts exactly if rows 1..7 are 28 bits long, which takes 8 rows. -/
theorem absentRowsFailTheGate : Obligations.AbsentRowsFailTheGate := by
  intro b s
  refine ⟨fun r hmin hmax habsent => ?_, ?_⟩
  · rw [rowBits_presentBurst b hmin hmax, presentRowBits_of_absent habsent]
  · have hpass : (presentBurst b).counts.AllFrameWide ↔ 8 ≤ b.length ∧ GatedRowsFrameWide b :=
      (presentBurst_allFrameWide_iff b).trans
        (and_iff_right_of_imp length_of_gatedRowsFrameWide).symm
    exact (exec_decode_eq_structuralMismatch_iff _ s).trans (not_congr hpass)

/-- Settles O50: the gate sees the lengths of rows 1..7 only, and what it passes has its frame from row 1. -/
theorem otherRowsHaveNoEffect : Obligations.OtherRowsHaveNoEffect := by
  intro a b s hrow hlens
  have hlen : ∀ r, 1 ≤ r → r ≤ 7 → (a[r]?).map List.length = (b[r]?).map List.length := by
    intro r hmin hmax
    obtain rfl | hmin := hmin.eq_or_lt
    · rw [hrow]
    · exact hlens r hmin hmax
  apply exec_decode_congr s
  · rw [presentBurst_allFrameWide_iff, presentBurst_allFrameWide_iff]
    exact forall₃_congr fun r hmin hmax => by rw [hlen r hmin hmax]
  · intro hwide
    have hrows := (presentBurst_allFrameWide_iff a).1 hwide
    exact presentBurst_upper_eq hrow (hrows 1 le_rfl (by decide))

/-- Settles O11: the gate's two answers, and DECODE's result on FAIL. -/
theorem widthGateTestsExactEquality : Obligations.WidthGateTestsExactEquality := by
  intro n s wide
  refine ⟨?_, fun hwide f => exec_decode_of_wrong_width s hwide⟩
  rw [exec_widthGate]
  by_cases hwide : wide
  · rw [if_pos hwide, (widthGate_pass_iff_allFrameWide n).2 hwide]
    rfl
  · rw [if_neg hwide, (widthGate_fail_iff n).2 hwide]
    rfl

end Sys2Proof
end

section
/-! PROOFS. The bit-field extractor (spec/42_bitfield.md): the nibbles of a byte, the fields as slices of the frame word,
and the two parts of the frame the result holds no field of: FTX, which the checksum covers, and the reserved nibble. -/

namespace Sys2Proof

open Machine

/-! The fields as the rules write them, in shifts and masks (R110 to R117). -/

/-- R117: FTX = W[4]. -/
theorem firstTx_eq_slice (f : FrameBytes) : firstTx f.b3 = f.word.extractLsb' 4 1 := by
  apply eq_slice_of_toNat
  rw [word_toNat, firstTx_toNat]
  omega

/-- R113: ID as a number, in the rule's own form. -/
theorem deviceId_toNat_eq_or (b0 b1 : Byte) :
    (deviceId b0 b1).toNat = ((lowNibble b0).toNat <<< 4) ||| (highNibble b1).toNat := by
  rw [← Nat.shiftLeft_add_eq_or_of_lt (highNibble b1).isLt, Nat.shiftLeft_eq, lowNibble_toNat,
    highNibble_toNat, deviceId_toNat]

/-- R114: TRAW as a number, in the rule's own form. -/
theorem tempRaw_toNat_eq_or (b1 b2 : Byte) :
    (tempRaw b1 b2).toNat = ((lowNibble b1).toNat <<< 8) ||| b2.toNat := by
  rw [← Nat.shiftLeft_add_eq_or_of_lt b2.isLt, Nat.shiftLeft_eq, lowNibble_toNat, tempRaw_toNat]

/-- R115: CH as a number, in the rule's own form. -/
theorem channel_toNat_eq_and (b3 : Byte) : (channel b3).toNat = b3.toNat >>> 6 &&& 3 := by
  have hmask : b3.toNat >>> 6 &&& 3 = b3.toNat >>> 6 % 4 := Nat.and_two_pow_sub_one_eq_mod _ 2
  have hb := b3.isLt
  rw [hmask, Nat.shiftRight_eq_div_pow, channel_toNat]
  omega

/-- R116: BAT as a number, in the rule's own form. -/
theorem battery_toNat_eq_and (b3 : Byte) : (battery b3).toNat = b3.toNat >>> 5 &&& 1 := by
  rw [Nat.and_one_is_mod, Nat.shiftRight_eq_div_pow, battery_toNat]

/-- R117: FTX as a number, in the rule's own form. -/
theorem firstTx_toNat_eq_and (b3 : Byte) : (firstTx b3).toNat = b3.toNat >>> 4 &&& 1 := by
  rw [Nat.and_one_is_mod, Nat.shiftRight_eq_div_pow, firstTx_toNat]

/-- R116: BAT is 1 exactly if bit 5 of b3 is set. -/
theorem battery_toNat_eq_one_iff (b3 : Byte) : (battery b3).toNat = 1 ↔ b3.getLsbD 5 = true := by
  rw [battery_toNat, BitVec.getLsbD, Nat.testBit_eq_decide_div_mod_eq, decide_eq_true_iff]

/-! FTX and the checksum (R117, R141). -/

/-- R117: flipping FTX flips the lowest bit of b3's high nibble. -/
theorem highNibble_flip_ftx (b3 : Byte) : highNibble (b3 ^^^ 0x10#8) = highNibble b3 ^^^ 1#4 := by
  rw [highNibble_eq, highNibble_eq, BitVec.extractLsb'_xor]
  rfl

/-- Flipping the lowest bit of a nibble moves it by one. -/
theorem nibble_xor_one (x : Nibble) : x ^^^ 1#4 = x + 1 ∨ x ^^^ 1#4 = x + -1 := by
  revert x
  decide

/-- R141: adding to S adds to C_CALC, mod 16. -/
theorem checksumOf_add (s : Nat) (d : Nibble) : checksumOf (s + d.toNat) = checksumOf s + d := by
  apply BitVec.eq_of_toNat_eq
  rw [BitVec.toNat_add, checksumOf_toNat, checksumOf_toNat]
  omega

/-- R141: the last covered nibble moves C_CALC by as much as it moves itself. -/
theorem computedChecksum_add {b3 c3 : Byte} {d : Nibble} (b0 b1 b2 : Byte)
    (h : highNibble c3 = highNibble b3 + d) :
    computedChecksum b0 b1 b2 c3 = computedChecksum b0 b1 b2 b3 + d := by
  simp only [computedChecksum, nibbleSum, checksumOf_add, h, BitVec.add_assoc]

/-- R117: flipping FTX alone moves C_CALC by plus or minus one, mod 16. -/
theorem computedChecksum_flip_ftx (b0 b1 b2 b3 : Byte) :
    computedChecksum b0 b1 b2 (b3 ^^^ 0x10#8) = computedChecksum b0 b1 b2 b3 + 1
      ∨ computedChecksum b0 b1 b2 (b3 ^^^ 0x10#8) = computedChecksum b0 b1 b2 b3 - 1 := by
  have hflip := highNibble_flip_ftx b3
  obtain hup | hdown := nibble_xor_one (highNibble b3)
  · exact .inl (computedChecksum_add b0 b1 b2 (hflip.trans hup))
  · rw [BitVec.sub_eq_add_neg]
    exact .inr (computedChecksum_add b0 b1 b2 (hflip.trans hdown))

/-- R117: flipping FTX alone changes C_CALC. -/
theorem computedChecksum_flip_ftx_ne (b0 b1 b2 b3 : Byte) :
    computedChecksum b0 b1 b2 (b3 ^^^ 0x10#8) ≠ computedChecksum b0 b1 b2 b3 := by
  obtain h | h := computedChecksum_flip_ftx b0 b1 b2 b3 <;> rw [h] <;> simp

/-- R80: a DECODE that gave SUCCESS has passed both gates. -/
theorem gates_pass_of_exec_decode_success {r : Request} {s : State} {rec : Record}
    (h : exec (.decode r) s = .next (s.writeRes (.success rec))) :
    r.counts.AllFrameWide ∧ ChecksumMatches r.row1.word := by
  by_cases hwide : r.counts.AllFrameWide
  · by_cases hsum : ChecksumMatches r.row1.word
    · exact ⟨hwide, hsum⟩
    · nomatch h.symm.trans (exec_decode_of_wrong_checksum s hwide hsum)
  · nomatch h.symm.trans (exec_decode_of_wrong_width s hwide)

/-- R142, R152: where a frame gave SUCCESS, one with the same b0 and another C_CALC gives INTEGRITY_VIOLATION. -/
theorem exec_decode_of_changed_checksum {n : RowCounts} {f g : FrameBytes} {s : State} {rec : Record}
    (h : exec (.decode ⟨n, f⟩) s = .next (s.writeRes (.success rec))) (hb0 : g.b0 = f.b0)
    (hcalc : computedChecksum g.b0 g.b1 g.b2 g.b3 ≠ computedChecksum f.b0 f.b1 f.b2 f.b3) :
    exec (.decode ⟨n, g⟩) s = .next (s.writeRes .integrityViolation) := by
  obtain ⟨hwide, hsum⟩ := gates_pass_of_exec_decode_success h
  refine exec_decode_of_wrong_checksum (r := ⟨n, g⟩) s hwide fun hsum' => hcalc ?_
  rw [← checksumRx_eq_computed_iff] at hsum hsum'
  rw [← hsum, ← hsum', hb0]

/-! The obligations. An operation's wire and frame hold by evaluation, once its slice is written as its field. -/

/-- Settles O19: flipping FTX moves C_CALC by one and leaves C_RX, so the two no longer agree. -/
theorem firstTxIsCoveredThoughNotOutput : Obligations.FirstTxIsCoveredThoughNotOutput := by
  intro n f s g
  rw [← firstTx_eq_slice]
  exact ⟨rfl, firstTx_toNat_eq_and f.b3, computedChecksum_flip_ftx f.b0 f.b1 f.b2 f.b3,
    fun rec h => exec_decode_of_changed_checksum (f := f) (g := g) h rfl
      (computedChecksum_flip_ftx_ne f.b0 f.b1 f.b2 f.b3)⟩

/-- Settles O32: both gates and the record read nothing of W[3:0]. -/
theorem reservedNibbleNeverMatters : Obligations.ReservedNibbleNeverMatters := by
  intro n w v s h
  refine exec_decode_congr (r := ⟨n, .ofWord w⟩) (q := ⟨n, .ofWord v⟩) s Iff.rfl fun _ => ?_
  rw [word_ofWord, word_ofWord, h]

/-- Settles O12: b[7:4] is the high nibble. -/
theorem highNibbleIsUpperHalf : Obligations.HighNibbleIsUpperHalf := by
  intro b s
  rw [← highNibble_eq]
  exact ⟨rfl, highNibble_toNat b⟩

/-- Settles O13: b[3:0] is the low nibble. -/
theorem lowNibbleIsLowerHalf : Obligations.LowNibbleIsLowerHalf := by
  intro b s
  rw [← lowNibble_eq]
  exact ⟨rfl, lowNibble_toNat b⟩

/-- Settles O14: W[31:28] is C_RX, which is by definition the high nibble of b0. -/
theorem checksumRxIsTopNibble : Obligations.ChecksumRxIsTopNibble := by
  intro f s
  rw [← checksumRx_eq_slice]
  exact ⟨rfl, rfl⟩

/-- Settles O15: W[27:20] is ID. -/
theorem idSpansTwoBytes : Obligations.IdSpansTwoBytes := by
  intro f s
  rw [← deviceId_eq_slice]
  exact ⟨rfl, deviceId_toNat_eq_or f.b0 f.b1⟩

/-- Settles O16: W[19:8] is TRAW. -/
theorem rawTemperatureSpansTwoBytes : Obligations.RawTemperatureSpansTwoBytes := by
  intro f s
  rw [← tempRaw_eq_slice]
  exact ⟨rfl, tempRaw_toNat_eq_or f.b1 f.b2⟩

/-- Settles O17: W[7:6] is CH. -/
theorem channelIsUnsignedTwoBits : Obligations.ChannelIsUnsignedTwoBits := by
  intro f s
  rw [← channel_eq_slice]
  exact ⟨rfl, channel_toNat_eq_and f.b3⟩

/-- Settles O18: W[5] is BAT, and its text is that of bit 5 of b3. -/
theorem batteryBitSetMeansOk : Obligations.BatteryBitSetMeansOk := by
  intro f s
  rw [← battery_eq_slice]
  refine ⟨rfl, battery_toNat_eq_and f.b3, ?_⟩
  rw [batteryText_eq]
  exact if_congr (battery_toNat_eq_one_iff f.b3) rfl rfl

end Sys2Proof
end

section
/-! PROOFS. The signed-value reconstructor (spec/43_signed_value.md): TEMP is the one integer in range that is TRAW
modulo 4096. -/

namespace Sys2Proof

open Machine

/-- R130: what SIGNED_RECON puts on its wire, and that it does nothing else. -/
theorem exec_signedRecon (traw : RawTemp) (s : State) :
    exec (.signedRecon traw) s = .next (s.drive { s.wires with temp := some (signedTemp traw) }) :=
  rfl

/-- R130: the next states of SIGNED_RECON that differ in TEMP alone are told apart by TEMP. -/
theorem exec_signedRecon_eq_iff (traw : RawTemp) (s : State) (t : Int) :
    exec (.signedRecon traw) s = .next (s.drive { s.wires with temp := some t })
      ↔ signedTemp traw = t := by
  rw [exec_signedRecon]
  constructor
  · intro h
    simpa using congrArg (fun u : State => u.wires.temp) (Host.Outcome.next.inj h)
  · rintro rfl
    rfl

/-- R130, R134: TEMP is the one integer in its range that is TRAW modulo 4096. -/
theorem signedTemp_eq_iff (traw : RawTemp) (t : Int) :
    signedTemp traw = t ↔ tempInRange t = true ∧ t % 4096 = traw.toNat := by
  have hlt := traw.isLt
  rw [tempInRange_iff]
  obtain habove | hupTo := Nat.lt_or_ge 2048 traw.toNat
  · rw [signedTemp_above traw habove]
    omega
  · rw [signedTemp_upTo traw hupTo]
    omega

/-- R134: two TRAW with the same TEMP are equal. -/
theorem signedTemp_injective : Function.Injective signedTemp := by
  intro a b h
  obtain ⟨-, ha⟩ := (signedTemp_eq_iff a _).1 h
  obtain ⟨-, hb⟩ := (signedTemp_eq_iff b _).1 rfl
  exact BitVec.eq_of_toNat_eq (Int.ofNat_inj.1 (ha.symm.trans hb))

/-- R134: its inverse gives a TRAW with the given TEMP. -/
theorem signedTemp_rawOfTemp {t : Int} (h : tempInRange t = true) : signedTemp (rawOfTemp t) = t := by
  refine (signedTemp_eq_iff _ t).2 ⟨h, ?_⟩
  rw [rawOfTemp, cfg_tempSubtrahend]
  split <;> rw [BitVec.toNat_ofInt] <;> omega

/-- R133: the two readings of TRAW agree wherever two's complement does not give -2048, which is out of range. -/
theorem signedTemp_eq_toInt_iff (traw : RawTemp) : signedTemp traw = traw.toInt ↔ traw ≠ 2048#12 := by
  have hlt := traw.isLt
  have htoInt := traw.toInt_eq_toNat_cond
  rw [signedTemp_eq_iff, tempInRange_iff, Ne, ← BitVec.toNat_inj, BitVec.toNat_ofNat]
  split at htoInt <;> omega

/-- Settles O21: the two readings differ only where two's complement gives -2048; the threshold is strict. -/
theorem signedReconIsNotTwosComplementAt2048 : Obligations.SignedReconIsNotTwosComplementAt2048 := by
  intro traw s
  constructor
  · exact (exec_signedRecon_eq_iff traw s traw.toInt).trans (signedTemp_eq_toInt_iff traw)
  · exact (exec_signedRecon_eq_iff 2048#12 s 2048).2 (signedTemp_upTo 2048#12 le_rfl)

/-- Settles O22: R134's inverse hits every TEMP in range, and the outcome tells TEMP, which tells TRAW. -/
theorem signedReconIsBijective : Obligations.SignedReconIsBijective := by
  constructor
  · intro t s hmin hmax
    have hraw : BitVec.ofInt 12 (if t < 0 then t + 4096 else t) = rawOfTemp t := apply_ite ..
    rw [hraw]
    exact (exec_signedRecon_eq_iff _ s t).2 (signedTemp_rawOfTemp ((tempInRange_iff t).2 ⟨hmin, hmax⟩))
  · intro a b s h
    exact signedTemp_injective ((exec_signedRecon_eq_iff a s _).1 h)

/-- Settles O20, on each side of the threshold. -/
theorem signedReconSubtractsAboveThreshold : Obligations.SignedReconSubtractsAboveThreshold := by
  intro traw s
  refine ⟨signedTemp traw, exec_signedRecon traw s, ?_, (tempInRange_iff _).1 (signedTemp_inRange traw)⟩
  split
  · exact signedTemp_above traw ‹_›
  · exact signedTemp_upTo traw (Nat.not_lt.1 ‹_›)

end Sys2Proof
end

section
/-! PROOFS. The checksum validator (spec/44_checksum.md): what C_CALC is of the frame word, which changes of the frame it
catches, and the checksum nibble a sender sets. -/

namespace Sys2Proof

open Machine

/-! The checksum as a function of the frame word (R141, R142). -/

theorem exec_checksumCompute (b0 b1 b2 b3 : Byte) (s : State) :
    exec (.checksumCompute b0 b1 b2 b3) s
      = .next (s.drive { s.wires with
          sum := some (nibbleSum b0 b1 b2 b3)
          cCalc := some (computedChecksum b0 b1 b2 b3) }) := rfl

theorem exec_checksumCompare (a b : Nibble) (s : State) :
    exec (.checksumCompare a b) s
      = .next (s.drive { s.wires with checksumGate := some (checksumGate a b) }) := rfl

/-- R141: C_CALC depends on S modulo 16, and on nothing else. -/
theorem checksumOf_eq_iff (a b : Nat) : checksumOf a = checksumOf b ↔ a % 16 = b % 16 := by
  rw [← BitVec.toNat_inj, checksumOf_toNat, checksumOf_toNat]
  omega

/-- R141, D26: C_CALC as the non-negative remainder of S - 1. -/
theorem checksumOf_toNat_eq_sub_one (s : Nat) :
    ((checksumOf s).toNat : Int) = ((s : Int) - 1) % 16 := by
  rw [checksumOf_toNat]
  omega

/-- R141: C_CALC of the bytes of a frame word. -/
theorem computedChecksum_ofWord (w : FrameWord) :
    computedChecksum (FrameBytes.ofWord w).b0 (FrameBytes.ofWord w).b1 (FrameBytes.ofWord w).b2
      (FrameBytes.ofWord w).b3 = checksumOf (coveredSum w) := by
  rw [computedChecksum, nibbleSum_eq_coveredSum, word_ofWord]

/-- R142: the frame passes exactly where its C_RX is its C_CALC. -/
theorem checksumMatches_iff (w : FrameWord) :
    ChecksumMatches w ↔ w.extractLsb' 28 4 = checksumOf (coveredSum w) := by
  rw [ChecksumMatches, ← checksumOf_toNat_eq_sub_one, Int.natCast_inj, BitVec.toNat_inj]

/-- R80: a DECODE gives SUCCESS exactly where both gates pass. -/
theorem exec_decode_eq_success_iff (r : Request) (s : State) :
    (∃ rec, exec (.decode r) s = .next (s.writeRes (.success rec)))
      ↔ r.counts.AllFrameWide ∧ ChecksumMatches r.row1.word :=
  ⟨fun ⟨_, h⟩ => gates_pass_of_exec_decode_success h,
    fun ⟨hwide, hsum⟩ => ⟨_, exec_decode_of_valid s hwide hsum⟩⟩

/-! The six covered nibbles, and what the change of one does (R63, R144). -/

/-- R63: the covered nibbles, W[27:24] first. -/
def coveredNibble (w : FrameWord) (j : Fin 6) : Nibble := w.extractLsb' (24 - 4 * j.val) 4

/-- R141: S as the sum over the covered nibbles. -/
theorem coveredSum_eq_sum (w : FrameWord) : coveredSum w = ∑ j, (coveredNibble w j).toNat := by
  rw [Fin.sum_univ_six]
  rfl

/-- R141: six nibbles of at most 15. -/
theorem coveredSum_le (w : FrameWord) : coveredSum w ≤ 90 := by
  rw [coveredSum_eq_sum]
  exact Finset.sum_le_card_nsmul Finset.univ _ 15 fun j _ => Nat.le_of_lt_succ (coveredNibble w j).isLt

theorem coveredSum_congr {w v : FrameWord} (h : ∀ j, coveredNibble v j = coveredNibble w j) :
    coveredSum v = coveredSum w := by
  simp only [coveredSum_eq_sum, h]

/-- R144: two frames that differ in one covered nibble have another C_CALC, since the rest of S is the same and a nibble
is its own remainder modulo 16. -/
theorem checksumOf_coveredSum_ne {w v : FrameWord} {k : Fin 6}
    (hk : coveredNibble v k ≠ coveredNibble w k)
    (h : ∀ j, j ≠ k → coveredNibble v j = coveredNibble w j) :
    checksumOf (coveredSum v) ≠ checksumOf (coveredSum w) := by
  have hrest : ∑ j ∈ {k}ᶜ, (coveredNibble v j).toNat = ∑ j ∈ {k}ᶜ, (coveredNibble w j).toNat :=
    Finset.sum_congr rfl fun j hj => by rw [h j (by simpa using hj)]
  have hv := (coveredNibble v k).isLt
  have hw := (coveredNibble w k).isLt
  rw [Ne, ← BitVec.toNat_inj] at hk
  rw [Ne, checksumOf_eq_iff, coveredSum_eq_sum, coveredSum_eq_sum,
    Fintype.sum_eq_add_sum_compl k, Fintype.sum_eq_add_sum_compl k, hrest]
  omega

/-- Counted from C_RX = W[31:28] down, nibble `j + 1` of the frame is the covered nibble `j`. -/
theorem slice_succ_eq_coveredNibble (w : FrameWord) (j : Fin 6) :
    w.extractLsb' (28 - 4 * j.succ.val) 4 = coveredNibble w j := by
  rw [coveredNibble, Fin.val_succ, Nat.mul_succ, Nat.sub_add_eq, Nat.sub_right_comm]

/-- R144: with one of the seven nibbles of a frame that passes changed, C_RX included, the frame does not pass. -/
theorem not_checksumMatches_of_one_nibble_changed {w v : FrameWord} {k : Fin 7}
    (hmatch : ChecksumMatches w)
    (hk : v.extractLsb' (28 - 4 * k.val) 4 ≠ w.extractLsb' (28 - 4 * k.val) 4)
    (h : ∀ j : Fin 7, j ≠ k → v.extractLsb' (28 - 4 * j.val) 4 = w.extractLsb' (28 - 4 * j.val) 4) :
    ¬ChecksumMatches v := by
  rw [checksumMatches_iff] at hmatch ⊢
  cases k using Fin.cases with
  | zero =>
    have hsum : coveredSum v = coveredSum w := coveredSum_congr fun j => by
      simpa only [slice_succ_eq_coveredNibble] using h j.succ (Fin.succ_ne_zero j)
    rw [hsum, ← hmatch]
    exact hk
  | succ k =>
    have hrx : v.extractLsb' 28 4 = w.extractLsb' 28 4 := h 0 (Fin.succ_ne_zero k).symm
    rw [hrx, hmatch]
    refine (checksumOf_coveredSum_ne (k := k) ?_ fun j hj => ?_).symm
    · simpa only [slice_succ_eq_coveredNibble] using hk
    · simpa only [slice_succ_eq_coveredNibble] using h j.succ ((Fin.succ_injective 6).ne hj)

/-! The frame as a checksum nibble before its 28 low bits (R60, R145). -/

/-- R63, R141: S of the 28 low bits of a frame. -/
def dataSum (d : BitVec 28) : Nat :=
  (d.extractLsb' 24 4).toNat + (d.extractLsb' 20 4).toNat + (d.extractLsb' 16 4).toNat
    + (d.extractLsb' 12 4).toNat + (d.extractLsb' 8 4).toNat + (d.extractLsb' 4 4).toNat

/-- R63: the checksum nibble is no part of S. -/
theorem coveredSum_append (c : Nibble) (d : BitVec 28) : coveredSum (c ++ d) = dataSum d := by
  simp (disch := decide) only [coveredSum, dataSum, BitVec.extractLsb'_append_eq_of_add_le]

/-- R145: the one checksum nibble that passes before given low bits. -/
theorem checksumMatches_append_iff (c : Nibble) (d : BitVec 28) :
    ChecksumMatches (c ++ d) ↔ c = checksumOf (dataSum d) := by
  rw [checksumMatches_iff, coveredSum_append, BitVec.extractLsb'_append_eq_left]

/-- R60: the 28 low bits of a frame with these fields. -/
def frameData (f : FrameFields) : BitVec 28 :=
  f.id ++ f.traw ++ f.ch ++ f.bat ++ f.ftx ++ f.rsv

/-- R60: the checksum nibble stands before everything else. -/
theorem wordWith_eq_append (f : FrameFields) (c : Nibble) : f.wordWith c = c ++ frameData f := by
  simp only [FrameFields.wordWith, frameData, BitVec.append_assoc, BitVec.cast_eq]

/-- R145: a sender's frame passes the checksum. -/
theorem checksumMatches_senderWord (f : FrameFields) : ChecksumMatches (senderWord f) := by
  rw [senderWord, senderChecksum, computedChecksum_ofWord, wordWith_eq_append, wordWith_eq_append,
    coveredSum_append]
  exact (checksumMatches_append_iff _ _).2 rfl

/-- R85: the record of a frame built from its fields, whatever its checksum nibble. -/
theorem wordRecord_wordWith (f : FrameFields) (c : Nibble) :
    wordRecord (f.wordWith c) = recordAssemble f.id f.ch f.bat (signedTemp f.traw) := by
  obtain ⟨-, hid, htraw, hch, hbat, -, -⟩ := frameFieldsStandInTheirSlices f c
  rw [wordRecord, hid, htraw, hch, hbat]

theorem frameCounts_allFrameWide : frameCounts.AllFrameWide :=
  frameCounts.allFrameWide_iff_eq.2 rfl

theorem frameRequest_word (w : FrameWord) : (frameRequest w).row1.word = w := word_ofWord w

/-- R80: a frame presented with right counts gives SUCCESS exactly where its checksum nibble is right. -/
theorem exec_decode_frameRequest_eq_success_iff (w : FrameWord) (s : State) :
    (∃ rec, exec (.decode (frameRequest w)) s = .next (s.writeRes (.success rec)))
      ↔ ChecksumMatches w := by
  rw [exec_decode_eq_success_iff, frameRequest_word]
  exact and_iff_right frameCounts_allFrameWide

/-! The obligations. -/

/-- Settles O35: a sender's frame passes both gates, and its record holds the fields it was built from. -/
theorem sentFramesDecodeToTheirFields : Obligations.SentFramesDecodeToTheirFields := by
  intro f s
  have hdecode := exec_decode_of_valid (r := frameRequest (senderWord f)) s frameCounts_allFrameWide
    ((frameRequest_word _).symm ▸ checksumMatches_senderWord f)
  rw [frameRequest_word, senderWord, wordRecord_wordWith] at hdecode
  exact ⟨_, toInt_ofInt_of_inRange _ (signedTemp_inRange f.traw), hdecode⟩

/-- Settles O23: the six nibbles are the covered slices of the frame word. -/
theorem checksumComputeSumsSixNibbles : Obligations.ChecksumComputeSumsSixNibbles := by
  intro f s w sum
  refine ⟨coveredSum_le w, checksumOf sum, ?_, checksumOf_toNat_eq_sub_one sum, checksumOf_toNat sum⟩
  rw [exec_checksumCompute, computedChecksum, nibbleSum_eq_coveredSum]
  rfl

/-- Settles O33: one changed nibble moves C_CALC or C_RX but not both, and C_CALC sees S modulo 16 only. -/
theorem singleNibbleChangesAreCaught : Obligations.SingleNibbleChangesAreCaught := by
  refine ⟨?_, fun n w v k s rec hdecode hk h => ?_, fun f g => (checksumOf_eq_iff _ _).2⟩
  · intro w v k f g hk h
    rw [computedChecksum_ofWord, computedChecksum_ofWord]
    exact checksumOf_coveredSum_ne hk h
  · obtain ⟨hwide, hmatch⟩ := gates_pass_of_exec_decode_success hdecode
    rw [word_ofWord] at hmatch
    apply exec_decode_of_wrong_checksum (r := ⟨n, .ofWord v⟩) s hwide
    rw [word_ofWord]
    exact not_checksumMatches_of_one_nibble_changed hmatch hk h

/-- Settles O34: before given low bits one checksum nibble matches, and the width gate passes. -/
theorem exactlyOneChecksumNibblePasses : Obligations.ExactlyOneChecksumNibblePasses := by
  intro d s sum
  exact ⟨checksumOf sum, checksumOf_toNat_eq_sub_one sum, fun x =>
    (exec_decode_frameRequest_eq_success_iff (x ++ d) s).trans (checksumMatches_append_iff x d)⟩

/-- Settles O24: the gate is the equality test, and DECODE raises on its FAIL. -/
theorem checksumCompareTestsEquality : Obligations.ChecksumCompareTestsEquality := by
  intro a b s
  constructor
  · rw [exec_checksumCompare, checksumGate]
    simp only [BitVec.toNat_inj]
    rfl
  · rintro f hne rfl rfl
    rw [Ne, checksumRx_eq_computed_iff] at hne
    exact exec_decode_of_wrong_checksum (r := ⟨⟨28, 28, 28, 28, 28, 28, 28⟩, f⟩) s
      ((RowCounts.allFrameWide_iff_eq _).2 rfl) hne

end Sys2Proof
end

section
/-! PROOFS. Several instances of the block (spec/60_exceptions.md R160): a step of one replaces its own entry of the list
and reads no other, so steps of two instances commute. -/

namespace Sys2Proof

open Machine

/-! The step of one instance. -/

theorem stepInstance_of_step {k : Nat} {ss : List State} {s t : State} (hk : ss[k]? = some s)
    (hstep : step s = .next t) : stepInstance k ss = .next (ss.set k t) := by
  simp only [stepInstance, hk, hstep]

theorem stepInstance_of_absent {k : Nat} {ss : List State} (hk : ss[k]? = none) :
    stepInstance k ss = .next ss := by
  simp only [stepInstance, hk]

/-- The step of instance `k` depends on its own entry alone: in every list that has the same entry there, it replaces
that entry by the same state. -/
theorem stepInstance_next_sets {k : Nat} {ss a : List State} (h : stepInstance k ss = .next a) :
    ∃ t, a = ss.set k t ∧ ∀ l : List State, l[k]? = ss[k]? → stepInstance k l = .next (l.set k t) := by
  obtain ⟨hk, rfl⟩ | ⟨s, t, hk, hstep, rfl⟩ := stepInstance_next_cases h
  · -- with no entry at `k`, replacing it by any state changes nothing
    have set_absent {l : List State} (hl : l[k]? = none) : l.set k State.reset = l :=
      List.set_eq_of_length_le (List.getElem?_eq_none_iff.1 hl)
    refine ⟨State.reset, (set_absent hk).symm, fun l hl => ?_⟩
    rw [hk] at hl
    rw [set_absent hl, stepInstance_of_absent hl]
  · exact ⟨t, rfl, fun l hl => stepInstance_of_step (hl.trans hk) hstep⟩

theorem stepInstance_getElem?_self {k : Nat} {ss : List State} {s t : State} (hk : ss[k]? = some s)
    (hstep : step s = .next t) : ∃ a, stepInstance k ss = .next a ∧ a[k]? = some t := by
  refine ⟨_, stepInstance_of_step hk hstep, ?_⟩
  rw [List.getElem?_set_self', hk]
  rfl

theorem stepInstance_getElem?_ne {k j : Nat} {ss a : List State} (h : stepInstance k ss = .next a)
    (hj : j ≠ k) : a[j]? = ss[j]? := by
  obtain ⟨t, rfl, -⟩ := stepInstance_next_sets h
  exact List.getElem?_set_ne hj.symm

/-- Each of two instances finds its own entry as it was after the other's step, and replacements at two indices
commute. -/
theorem stepInstance_comm {i j : Nat} {ss a b : List State} (hij : i ≠ j)
    (hi : stepInstance i ss = .next a) (hj : stepInstance j a = .next b) :
    ∃ c, stepInstance j ss = .next c ∧ stepInstance i c = .next b := by
  have hja : a[j]? = ss[j]? := stepInstance_getElem?_ne hi hij.symm
  obtain ⟨t, rfl, stepI⟩ := stepInstance_next_sets hi
  obtain ⟨u, rfl, stepJ⟩ := stepInstance_next_sets hj
  have hc : stepInstance j ss = .next (ss.set j u) := stepJ ss hja.symm
  refine ⟨ss.set j u, hc, ?_⟩
  rw [stepI _ (stepInstance_getElem?_ne hc hij), List.set_comm _ _ hij]

/-! The obligation. -/

/-- Settles O55: a step of instance `i` replaces entry `i` alone. -/
theorem instancesAreIndependent : Obligations.InstancesAreIndependent := fun _ _ =>
  ⟨fun _ _ => stepInstance_getElem?_self, fun _ _ => stepInstance_getElem?_ne,
    fun _ _ _ => stepInstance_comm⟩

end Sys2Proof
end

section
/-! PROOFS. Reset and hazards (spec/70_reset_and_hazards.md): what the host does between a DECODE request and its response,
RESET, power-up, and the transactions that are no DECODE. -/

namespace Sys2Proof

open Machine

/-! The window between a request and its response (R45, R171, R175, R177). -/

/-- R177: a window read that answers records the reply, and the window goes on. -/
theorem runWindow_read_of_ok {p : ReadPort} {s : State} {v : Reply} (es : List WindowEvent)
    (h : portValue p s = .ok v) :
    runWindow (.read p :: es) s = runWindow es { s with replies := v :: s.replies } := by
  simp only [runWindow, readPort_of_ok h]

theorem runWindow_read_of_error {p : ReadPort} {s : State} {f : Fault} (es : List WindowEvent)
    (h : portValue p s = .error f) : runWindow (.read p :: es) s = .fault f := by
  simp only [runWindow, readPort_of_error h]

/-- R45: presenting the inputs that are there is no change. -/
theorem runWindow_present_same {r : Request} {s : State} (es : List WindowEvent) (h : r = s.ports) :
    runWindow (.present r :: es) s = runWindow es s := by
  simp only [runWindow, if_pos h]

theorem runWindow_present_other {r : Request} {s : State} (es : List WindowEvent)
    (h : r ≠ s.ports) : runWindow (.present r :: es) s = .refused .inputsChanged := by
  simp only [runWindow, if_neg h]

theorem runWindow_reset (es : List WindowEvent) (s : State) :
    runWindow (.reset :: es) s = .refused .resetDuringDecode := rfl

/-- A harmless read is one whose port holds a value, and that value is its reply. -/
theorem portValue_of_harmless_read {s : State} {p : ReadPort} (h : harmless s (.read p) = true) :
    ∃ v, portValue p s = .ok v ∧ windowReply s (.read p) = some v := by
  simp only [harmless, windowReply] at h ⊢
  cases hv : portValue p s with
  | ok v => exact ⟨v, rfl, rfl⟩
  | error f => simp [hv] at h

theorem ports_of_harmless_present {s : State} {r : Request} (h : harmless s (.present r) = true) :
    r = s.ports := of_decide_eq_true h

/-- R177, R45: a harmless window runs to its end and adds the replies of its reads, each the one that `s` gives: the
replies recorded so far do not enter into what is harmless or what a read answers. -/
theorem runWindow_of_harmless {during : List WindowEvent} {s : State} (rest : List HostEvent)
    (vs : List Reply) (h : harmlessWindow during s = true) :
    runWindow during { s with pending := rest, replies := vs }
      = .next { s with pending := rest
                       replies := (during.filterMap (windowReply s)).reverse ++ vs } := by
  induction during generalizing vs with
  | nil => rfl
  | cons e es ih =>
    obtain ⟨he, hes⟩ : harmless s e = true ∧ harmlessWindow es s = true := by
      simpa [harmlessWindow] using h
    cases e with
    | read p =>
      obtain ⟨v, hv, hreply⟩ := portValue_of_harmless_read he
      have hanswer : portValue p { s with pending := rest, replies := vs } = .ok v :=
        (portValue_congr p rfl rfl).trans hv
      rw [List.filterMap_cons_some hreply, List.reverse_cons, List.append_assoc]
      exact (runWindow_read_of_ok es hanswer).trans (ih (v :: vs) hes)
    | present r =>
      have hsame := runWindow_present_same (s := { s with pending := rest, replies := vs }) es
        (ports_of_harmless_present he)
      exact hsame.trans (ih vs hes)
    | reset => cases he

/-- With a beginning of the window run to its end, the request is the one with the rest of the window. -/
theorem perform_request_append {before : List WindowEvent} {s t : State} (after : List WindowEvent)
    (h : runWindow before s = .next t) :
    perform (.request (before ++ after)) s = perform (.request after) t := by
  obtain ⟨vs, hvs⟩ := runWindow_next h
  have hports : t.ports = s.ports := by rw [hvs]
  simp only [perform, transact, fetch_eq, runWindow_append after h, hports]

/-- After a harmless beginning of its window a request goes on as if the window began there, with the replies of the
beginning recorded. -/
theorem step_request_after_harmless {before : List WindowEvent} {s : State}
    (after : List WindowEvent) (rest : List HostEvent) (h : harmlessWindow before s = true) :
    step { s with pending := .request (before ++ after) :: rest }
      = perform (.request after)
          { s with pending := rest
                   replies := (before.filterMap (windowReply s)).reverse ++ s.replies } :=
  (step_cons s _ rest).trans (perform_request_append after (runWindow_of_harmless rest s.replies h))

theorem perform_request_of_refused {during : List WindowEvent} {s : State} {r : Refusal}
    (h : runWindow during s = .refused r) : perform (.request during) s = .refused r := by
  simp only [perform, transact, fetch_eq, h]

theorem perform_request_of_fault {during : List WindowEvent} {s : State} {f : Fault}
    (h : runWindow during s = .fault f) : perform (.request during) s = .fault f := by
  simp only [perform, transact, fetch_eq, h]

/-- R178: a request with nothing in its window is `exec` of the DECODE of the inputs. -/
theorem perform_request_nil (s : State) : perform (.request []) s = exec (.decode s.ports) s :=
  (perform_request_of_window rfl).trans (congrArg (exec · s) (decodeRequest_word s.ports))

/-! Power-up, and the transactions that are no DECODE. -/

/-- R172: at power-up a read of RES faults. -/
theorem portValue_res_of_unspecified {s : State} (hu : s.unspecified = true) :
    portValue .res s = .error .resUnspecified := by
  simp only [portValue, if_pos hu]

/-- R172: at power-up a read of a field of RES faults. -/
theorem portValue_field_of_unspecified {s : State} (f : ResField) (hu : s.unspecified = true) :
    portValue (.field f) s = .error .resUnspecified := by
  simp only [portValue, if_pos hu]

/-- R170: the step of a RESET. -/
theorem step_reset (s : State) (rest : List HostEvent) :
    step { s with pending := .reset :: rest } = .next { s with pending := rest }.applyReset :=
  step_cons s .reset rest

/-- R174: the step that presents inputs. -/
theorem step_present (s : State) (r : Request) (rest : List HostEvent) :
    step { s with pending := .present r :: rest }
      = .next ({ s with pending := rest }.presentInputs r) :=
  step_cons s (.present r) rest

theorem step_of_nothing_pending {s : State} (h : s.pending = []) : step s = .next s := by
  rw [step, h]

/-! The obligations. -/

/-- Settles O45: the window has only added the replies of its reads, and DECODE writes the same result after it as
before it. -/
theorem decodeCompletesAndReadsSeeThePreviousRes :
    Obligations.DecodeCompletesAndReadsSeeThePreviousRes := by
  intro s during rest h
  obtain ⟨res, hres⟩ := exec_decode_writes_one_result s.ports
  have hstep := step_request_after_harmless [] rest h
  rw [List.append_nil, perform_request_nil] at hstep
  exact ⟨res, hres s, hstep.trans (hres _)⟩

/-- Settles O46: the window stops at the changed inputs. -/
theorem inputChangeDuringDecodeIsRefused : Obligations.InputChangeDuringDecodeIsRefused :=
  fun _ _ after rest _ h hr =>
    (step_request_after_harmless _ rest h).trans
      (perform_request_of_refused (runWindow_present_other after hr))

/-- Settles O47: the window stops at a RESET, and RESET as a transaction of its own is `applyReset`. -/
theorem resetDuringDecodeIsRefused : Obligations.ResetDuringDecodeIsRefused :=
  fun s _ after rest =>
    ⟨fun h => (step_request_after_harmless _ rest h).trans
        (perform_request_of_refused (runWindow_reset after _)),
      _, step_reset s rest, applyReset_pending _⟩

/-- Settles O59: the window stops at the read that faults, whose port answers after the beginning as it did before. -/
theorem faultingReadDuringDecodeStopsTheRun : Obligations.FaultingReadDuringDecodeStopsTheRun :=
  fun _ _ after rest p _ h hp =>
    (step_request_after_harmless _ rest h).trans
      (perform_request_of_fault
        (runWindow_read_of_error after ((portValue_congr p rfl rfl).trans hp)))

/-- Settles O3: the step of a RESET is `applyReset`. -/
theorem resetTransactionClearsResOnly : Obligations.ResetTransactionClearsResOnly := step_reset

/-- Settles O39, by the DECODE that completes with an empty window and the read that answers the RES it left. -/
theorem readAfterResponseReturnsTheResult : Obligations.ReadAfterResponseReturnsTheResult := by
  intro s rest
  obtain ⟨res, hexec, hstep⟩ :=
    decodeCompletesAndReadsSeeThePreviousRes s [] (.read .res :: rest) rfl
  have hread := step_read_of_ok rest
    (portValue_res (s := { s with res := some res, unspecified := false, wires := Wires.idle }) rfl)
  exact ⟨_, _, res, hstep, hexec, hread, rfl⟩

/-- Settles O40: the reads fault by the flag, which RESET and the write of RES clear. -/
theorem powerUpReadsFaultUntilReset : Obligations.PowerUpReadsFaultUntilReset := by
  intro s rest f hu
  obtain ⟨res, hexec, hstep⟩ := decodeCompletesAndReadsSeeThePreviousRes s [] rest rfl
  refine ⟨step_read_of_error rest (portValue_res_of_unspecified hu),
    step_read_of_error rest (portValue_field_of_unspecified f hu), ?_, ?_⟩
  · exact ⟨_, step_reset s rest, applyReset_unspecified _, applyReset_res _,
      portValue_res (applyReset_unspecified _)⟩
  · exact ⟨_, res, hexec, hstep, rfl, portValue_res rfl⟩

/-- Settles O44: one lemma per transaction. -/
theorem otherTransactionsChangeOneThing : Obligations.OtherTransactionsChangeOneThing :=
  fun s rest => ⟨step_of_nothing_pending, fun r => step_present s r rest,
    fun _ _ => step_read_of_ok rest⟩

end Sys2Proof
end
